-- ==== Sys2Proof/Word.lean ====
section
/-! DEFINITION. The word and byte types of the ND-110 (spec/00_scope.md R8, spec/20_memory.md R80, R82). -/

namespace Sys2Proof

/-- A 16-bit word: every register, memory word, virtual address and instruction (R8). -/
abbrev Word := BitVec 16

/-- Half of a word (R82). -/
abbrev Byte := BitVec 8

/-- A 24-bit physical address, bank : offset (spec/20_memory.md R84). -/
abbrev PhysAddr := BitVec 24

/-- One of the sixteen program levels (spec/10_state.md R21). -/
abbrev Level := BitVec 4

end Sys2Proof
end

