-- ==== Sys2Proof/Machine/Bits.lean ====
section
/-! DEFINITION. Bit and byte helpers of the meanings (spec/00_scope.md R8 to R12). -/

namespace Sys2Proof.Machine

/-- `w` with bit `i` replaced by `b`. -/
def putBit {n : Nat} (w : BitVec n) (i : Nat) (b : Bool) : BitVec n :=
  if b then w ||| (1#n <<< i) else w &&& ~~~(1#n <<< i)

/-- A bit as a word, 0 or 1. -/
def bitWord (b : Bool) : Word := if b then 1 else 0

/-- `sext_8` (spec/20_memory.md R89, spec/45_argument_bit.md). -/
def sext8 (b : BitVec 8) : Word := b.signExtend 16

/-- Bits 15-8, the even byte of a word (spec/20_memory.md R82). -/
def evenByte (w : Word) : Byte := w.extractLsb' 8 8

/-- Bits 7-0, the odd byte of a word (R82). -/
def oddByte (w : Word) : Byte := w.extractLsb' 0 8

/-- Byte `n` of a string in the word that holds it: even numbers on the left (R82). -/
def byteOf (odd : Bool) (w : Word) : Byte := if odd then oddByte w else evenByte w

/-- The word with one of its bytes replaced (R80, R82). -/
def putByte (odd : Bool) (w : Word) (b : Byte) : Word :=
  if odd then evenByte w ++ b else b ++ oddByte w

/-- A physical address from bank and offset (spec/20_memory.md R84). -/
def physAddr (bank : Byte) (offset : Word) : PhysAddr := bank ++ offset

/-- The bank of a physical address. -/
def bankOf (pa : PhysAddr) : Byte := pa.extractLsb' 16 8

/-- The offset of a physical address within its bank. -/
def offsetOf (pa : PhysAddr) : Word := pa.extractLsb' 0 16

/-- The bank named by a 16-bit register: bits 7-0 (spec/48_privileged.md R395, D37). -/
def bankReg (w : Word) : Byte := w.extractLsb' 0 8

/-- The highest `i < n` with bit `i` of `req` set, 0 when there is none. -/
def highestBelow (req : Word) : Nat → Nat
  | 0 => 0
  | n + 1 => if req.getLsbD n then n else highestBelow req n

end Sys2Proof.Machine
end

