-- ==== Sys2Proof/Machine/Memory.lean ====
section
/-! DEFINITION. A memory of bytes as a list of cells in one canonical form: addresses strictly rising, no byte that
is 0, which is what an address that is not listed reads as (log 2). Words are two bytes, bits 15-8 first
(spec/20_memory.md R80, R82; log 1). -/

namespace Sys2Proof.Machine

/-- What an address that is not listed reads as (log 2). -/
def Memory.unlisted : Byte := 0

/-- The byte at an address. -/
def Memory.get : List Host.Cell → Nat → Byte
  | [], _ => Memory.unlisted
  | (a, v) :: m, k => if k < a then Memory.unlisted else if k = a then v else Memory.get m k

/-- The memory after writing one byte. -/
def Memory.set : List Host.Cell → Nat → Byte → List Host.Cell
  | [], k, v => if v = Memory.unlisted then [] else [(k, v)]
  | (a, w) :: m, k, v =>
    if k < a then (if v = Memory.unlisted then (a, w) :: m else (k, v) :: (a, w) :: m)
    else if k = a then (if v = Memory.unlisted then m else (k, v) :: m)
    else (a, w) :: Memory.set m k v

/-- Addresses from `lo` up, strictly rising, below `bound`; no byte is the unlisted one. -/
def Memory.wfFrom (lo bound : Nat) : List Host.Cell → Bool
  | [] => true
  | (a, v) :: m => decide (lo ≤ a) && decide (a < bound) && v != Memory.unlisted && Memory.wfFrom (a + 1) bound m

/-- The canonical form of a memory of `bound` bytes. -/
def Memory.wf (bound : Nat) (m : List Host.Cell) : Bool := Memory.wfFrom 0 bound m

/-- The word at word address `i`. -/
def Memory.word (m : List Host.Cell) (i : Nat) : Word := Memory.get m (2 * i) ++ Memory.get m (2 * i + 1)

/-- The memory after writing the word at word address `i`. -/
def Memory.setWord (m : List Host.Cell) (i : Nat) (w : Word) : List Host.Cell :=
  Memory.set (Memory.set m (2 * i) (evenByte w)) (2 * i + 1) (oddByte w)

/-- The number of bytes of physical memory: 2^24 words (spec/20_memory.md R84). -/
def Memory.physBytes : Nat := 33554432

/-- The number of bytes of the page tables: 2048 words (spec/20_memory.md R99). -/
def Memory.ptabBytes : Nat := 4096

end Sys2Proof.Machine
end

