-- ==== Sys2Proof/Config.lean ====
section
/-! DEFINITION. What the spec leaves to the implementation or the installation: the named parameters of
spec/00_scope.md R5, held as plain data (State.cfg), and the free values and parameter functions, opaque constants
whose values no proof can see. -/

namespace Sys2Proof

/-- `PT_MODE`: four or sixteen page tables (spec/92_eei_decisions.md D4). -/
inductive PtMode where
  | four
  | sixteen
  deriving DecidableEq, Repr

/-- `SKP_ORDER`: which operand of SKP is subtracted from which (spec/44_jump_mon_skip.md R281, D25). -/
inductive SkpOrder where
  | drMinusSr
  | srMinusDr
  deriving DecidableEq, Repr

/-- Which bit of a word is element `i` of an array of bits: bit `i`, or bit `15 - i`
(spec/49_sintran3.md R443 and D41; R423 and R427 for the page map and the RT bitmap). -/
inductive BitOrder where
  | fromBit0
  | fromBit15
  deriving DecidableEq, Repr

/-- How a page-table entry is judged: by the reference function of spec/20_memory.md R102, or by rules the spec
does not state (D3: `Translate` is a parameter; log 14). -/
inductive PageRules where
  | reference
  | unstated
  deriving DecidableEq, Repr

/-- A range of physical addresses that holds memory (`MemExists`, spec/20_memory.md R105, D1). -/
structure MemRange where
  base : Nat
  size : Nat
  deriving DecidableEq, Repr

/-- The parameters of one installation (spec/00_scope.md R5). No instruction changes them. -/
structure Config where
  /-- `FP48`: the 48-bit floating format instead of the 32-bit one (D5). -/
  fp48 : Bool
  ptMode : PtMode
  skpOrder : SkpOrder
  /-- `MemExists`: the physical word addresses that hold memory (D1). -/
  memMap : List MemRange
  pageRules : PageRules
  /-- `CLEPT_DISP` (spec/49_sintran3.md R422). -/
  cleptDisp : Word
  /-- `VERSN_PRINT`, `VERSN_MICROPROGRAM` (spec/46_byte_block_version.md R329). -/
  versnPrint : Word
  versnMicroprogram : Word
  /-- `INSTALLATION_NUMBER[0..15]`. -/
  installationNumber : Vector Byte 16
  /-- `ALD`, the automatic load descriptor (spec/10_state.md R42). -/
  ald : Word
  /-- `PANEL_INSTALLED` (spec/10_state.md R38). -/
  panelInstalled : Bool
  /-- `BitIndex` of LBIT, SBIT, LBITP, SBITP (R443). -/
  bitIndex : BitOrder
  /-- Which end of a word of the SINTRAN RT bitmap CNREK scans first (R427: lost; log 36). -/
  rtBitmapOrder : BitOrder
  /-- Whether the first line of CNREK's listing loads A (R427: lost; log 36). -/
  cnrekLoadsA : Bool
  /-- Which bit of a page map word stands for the first of its sixteen pages (R423: lost; log 37). -/
  pageMapOrder : BitOrder
  /-- Whether the page map of CLEPU is in the physical bank T (true) or at the virtual address L (R423; log 37). -/
  pageMapPhysical : Bool
  deriving DecidableEq, Repr

/-- The kinds of memory access (spec/20_memory.md R80; an indirect address fetch is a read, R96). -/
inductive AccessKind where
  | fetch
  | read
  | write
  deriving DecidableEq, Repr

/-- What the judgement of a page-table entry says of an access (spec/20_memory.md R101). -/
inductive PageVerdict where
  /-- Allowed: the physical page, and whether PGU and WIP are set in the entry (R101 d). -/
  | allowed (page : BitVec 14) (setPgu setWip : Bool)
  /-- "page not in memory" (code 3). -/
  | pageFault
  /-- Memory protect violation (code 2), with the PM bit of PGS. -/
  | violation (pm : Bool)
  deriving DecidableEq, Repr, Inhabited

/-- The four floating arithmetic functions of spec/42_floating_point.md R233. -/
inductive FpOp where
  | add
  | sub
  | mul
  | div
  deriving DecidableEq, Repr

/-- One transfer between the CPU and a device register (spec/60_exceptions.md R496). -/
structure IoTransfer where
  addr : Word
  data : Word
  answered : Bool
  deriving DecidableEq, Repr

/-- A free value: `any value` of the spec (spec/00_scope.md R12), a fresh one for each value of the counter
State.free (log 8). -/
opaque Config.freeWord : Nat → Word

/-- The word of the standard microprogram at a control store address (spec/10_state.md R45: not given; log 7). -/
opaque Config.microprogram : Nat → Word

/-- `Translate` where the installation's rules are not the reference ones: the verdict on an entry (both words),
an access kind, the ring of the program and SEXI (spec/20_memory.md R101; log 14). -/
opaque Config.openPageRules : Word → Word → AccessKind → BitVec 2 → Bool → PageVerdict

/-- `FpAdd, FpSub, FpMul, FpDiv` where spec/42_floating_point.md R233 (a), (b) does not fix the result: format
(true: 48 bits), accumulator, memory operand, TG; the result and whether it is an error (D6; log 23). -/
opaque Config.fpOther : FpOp → Bool → BitVec 48 → BitVec 48 → Bool → BitVec 48 × Bool

/-- DNZ where spec/42_floating_point.md R241 does not fix the result: format, accumulator, scaling, TG; the word
left in A and whether the conversion overflows (log 24). -/
opaque Config.dnzOther : Bool → BitVec 48 → BitVec 8 → Bool → Word × Bool

/-- What the devices answer to an input transfer from a register address after a history of transfers; `none` when no device
answers (spec/60_exceptions.md R496; log 13). -/
opaque Config.deviceInput : List IoTransfer → Word → Option Word

/-- Whether a transfer withdraws the request of the device with an ident code on a level: the history with the transfer at
its head, the level, the code (spec/60_exceptions.md R488: whatever IOX transfer the device defines; log 13). -/
opaque Config.transferWithdraws : List IoTransfer → Level → BitVec 9 → Bool

/-- Whether a device takes an output transfer, after a history of transfers (R496; log 13). -/
opaque Config.deviceAccepts : List IoTransfer → Word → Word → Bool

/-- The ASCII sign form that a code 101, 110 or 111 in bits 13-11 of a decimal descriptor selects, as the code 000 to 100
of the form it acts as (spec/47_decimal_stack.md R340 lists five codes; log 33). -/
opaque Config.asciiForm : BitVec 3 → BitVec 3

/-- The page of the 128-page map that the page-table index word of a list element stands for (spec/49_sintran3.md
R423: lost with the figure; log 37). -/
opaque Config.pageOfIndex : Word → BitVec 7

end Sys2Proof
end

