-- ==== Sys2Proof/Syntax.lean ====
section
/-! DEFINITION. The instructions: one constructor per mnemonic of spec/opcode_table.json, fields as
spec/30_encoding.md R131 to R144 gives them. -/

namespace Sys2Proof

/-- The working registers, register codes 1 to 7 (spec/10_state.md R22). -/
inductive Reg where
  | d
  | p
  | b
  | l
  | a
  | t
  | x
  deriving DecidableEq, Repr

/-- The register operand of the bit and inter-level instructions, where code 0 names STS (R22, R144). -/
inductive StsOrReg where
  | sts
  | reg (r : Reg)
  deriving DecidableEq, Repr

/-- The addressing mode bits and displacement of format MEM (R131). -/
structure MemOperand where
  x : Bool
  i : Bool
  b : Bool
  disp : BitVec 8
  deriving DecidableEq, Repr

/-- The type field of format SHF (spec/43_shift.md R250). -/
inductive ShiftType where
  | arith
  | rot
  | zin
  | lin
  deriving DecidableEq, Repr

/-- The condition field of SKP (spec/44_jump_mon_skip.md R280). -/
inductive SkpCond where
  | eql
  | geq
  | gre
  | mgre
  | ueq
  | lss
  | lst
  | mlst
  deriving DecidableEq, Repr

/-- The transfer code of MOVEW (spec/46_byte_block_version.md R327). -/
inductive MovewKind where
  | ptPt
  | ptApt
  | ptPhys
  | aptPt
  | aptApt
  | aptPhys
  | physPt
  | physApt
  | physPhys
  deriving DecidableEq, Repr

/-- The instruction set (spec/opcode_table.json). `sr`, `dr`: `none` is register code 0. -/
inductive Instr where
  -- memory reference, format MEM
  | stz (m : MemOperand)
  | sta (m : MemOperand)
  | stt (m : MemOperand)
  | stx (m : MemOperand)
  | std (m : MemOperand)
  | ldd (m : MemOperand)
  | stf (m : MemOperand)
  | ldf (m : MemOperand)
  | min (m : MemOperand)
  | lda (m : MemOperand)
  | ldt (m : MemOperand)
  | ldx (m : MemOperand)
  | add (m : MemOperand)
  | sub (m : MemOperand)
  | and (m : MemOperand)
  | ora (m : MemOperand)
  | fad (m : MemOperand)
  | fsb (m : MemOperand)
  | fmu (m : MemOperand)
  | fdv (m : MemOperand)
  | mpy (m : MemOperand)
  | jmp (m : MemOperand)
  | jpl (m : MemOperand)
  -- conditional jumps, format CJP
  | jap (disp : BitVec 8)
  | jan (disp : BitVec 8)
  | jaz (disp : BitVec 8)
  | jaf (disp : BitVec 8)
  | jpc (disp : BitVec 8)
  | jnc (disp : BitVec 8)
  | jxz (disp : BitVec 8)
  | jxn (disp : BitVec 8)
  -- skip
  | skp (cond : SkpCond) (sr dr : Option Reg)
  -- decimal, byte block, stack, format FIX
  | addd
  | subd
  | comd
  | tset
  | pack
  | upack
  | shde
  | rdus
  | bfill
  | movb
  | movbf
  | versn
  | init
  | entr
  | leave
  | eleav
  -- SINTRAN III
  | setpt
  | clept
  | clnreent
  | chreentpages
  | clepu
  | wglob
  | rglob
  | inspl
  | rempl
  | cnrek
  | clpt
  | enpt
  | rept
  | lbit
  | lbitp
  | sbit
  | sbitp
  | lbytp
  | sbytp
  | tsetp
  | rdusp
  -- register execute, table access, multiply and divide
  | exr (sr : Option Reg)
  | lasb (delta : BitVec 3)
  | sasb (delta : BitVec 3)
  | lacb (delta : BitVec 3)
  | sacb (delta : BitVec 3)
  | lxsb (delta : BitVec 3)
  | lxcb (delta : BitVec 3)
  | szsb (delta : BitVec 3)
  | szcb (delta : BitVec 3)
  | rmpy (sr dr : Option Reg)
  | rdiv (sr : Option Reg)
  | lbyt
  | sbyt
  | movew (kind : MovewKind)
  | mix3
  -- physical memory
  | ldatx (delta : BitVec 3)
  | ldxtx (delta : BitVec 3)
  | lddtx (delta : BitVec 3)
  | ldbtx (delta : BitVec 3)
  | statx (delta : BitVec 3)
  | stztx (delta : BitVec 3)
  | stdtx (delta : BitVec 3)
  | lwcs
  | identPl10
  | identPl11
  | identPl12
  | identPl13
  -- register operations, format ROP
  | swap (cm1 cld : Bool) (sr dr : Option Reg)
  | rand (cm1 cld : Bool) (sr dr : Option Reg)
  | rexo (cm1 cld : Bool) (sr dr : Option Reg)
  | rora (cm1 cld : Bool) (sr dr : Option Reg)
  | radd (adc ad1 cm1 cld : Bool) (sr dr : Option Reg)
  | copy (sr dr : Option Reg)
  | rclr (dr : Option Reg)
  | exit
  | rdcr (dr : Option Reg)
  | rinc (dr : Option Reg)
  | rsub (sr dr : Option Reg)
  -- internal registers and system control
  | tra (reg : BitVec 4)
  | trr (reg : BitVec 4)
  | mcl (reg : BitVec 4)
  | mst (reg : BitVec 4)
  | opcom
  | iof
  | ion
  | pof
  | piof
  | sex
  | rex
  | pon
  | pion
  | ioxt
  | exam
  | depo
  | wait (num : BitVec 8)
  | nlz (scaling : BitVec 8)
  | dnz (scaling : BitVec 8)
  | srb (level : Level)
  | lrb (level : Level)
  | mon (num : BitVec 8)
  | irw (level : Level) (dr : StsOrReg)
  | irr (level : Level) (dr : StsOrReg)
  -- shifts
  | sht (type : ShiftType) (count : BitVec 6)
  | shd (type : ShiftType) (count : BitVec 6)
  | sha (type : ShiftType) (count : BitVec 6)
  | sad (type : ShiftType) (count : BitVec 6)
  | iox (addr : BitVec 11)
  -- argument instructions
  | sab (num : BitVec 8)
  | saa (num : BitVec 8)
  | sat (num : BitVec 8)
  | sax (num : BitVec 8)
  | aab (num : BitVec 8)
  | aaa (num : BitVec 8)
  | aat (num : BitVec 8)
  | aax (num : BitVec 8)
  -- bit instructions, format BOP
  | bsetZro (bn : BitVec 4) (dr : StsOrReg)
  | bsetOne (bn : BitVec 4) (dr : StsOrReg)
  | bsetBcm (bn : BitVec 4) (dr : StsOrReg)
  | bsetBac (bn : BitVec 4) (dr : StsOrReg)
  | bskpZro (bn : BitVec 4) (dr : StsOrReg)
  | bskpOne (bn : BitVec 4) (dr : StsOrReg)
  | bskpBcm (bn : BitVec 4) (dr : StsOrReg)
  | bskpBac (bn : BitVec 4) (dr : StsOrReg)
  | bstc (bn : BitVec 4) (dr : StsOrReg)
  | bsta (bn : BitVec 4) (dr : StsOrReg)
  | bldc (bn : BitVec 4) (dr : StsOrReg)
  | blda (bn : BitVec 4) (dr : StsOrReg)
  | banc (bn : BitVec 4) (dr : StsOrReg)
  | band (bn : BitVec 4) (dr : StsOrReg)
  | borc (bn : BitVec 4) (dr : StsOrReg)
  | bora (bn : BitVec 4) (dr : StsOrReg)
  deriving DecidableEq, Repr

end Sys2Proof
end

