-- ==== Sys2Proof/Machine/State.lean ====
section
/-! DEFINITION. The state of the machine: every piece of state spec/10_state.md names, as plain data; the ways a step
can stop; the state after reset. -/

namespace Sys2Proof.Machine

/-- The working registers and the low status byte of one program level (spec/10_state.md R20, R21, R26). -/
structure LevelRegs where
  d : Word
  p : Word
  b : Word
  l : Word
  a : Word
  t : Word
  x : Word
  /-- STS bits 7-0: M C O Q Z K TG PTM (R27). -/
  sts : Byte
  deriving DecidableEq, Repr

/-- The paging control register of one level (R35). In four page table mode the numbers are 0 to 3. -/
structure Pcr where
  pt : BitVec 4
  apt : BitVec 4
  ring : BitVec 2
  deriving DecidableEq, Repr

/-- The paging status register (R36). -/
structure Pgs where
  ff : Bool
  pm : Bool
  pt : BitVec 4
  vpn : BitVec 6
  deriving DecidableEq, Repr

/-- The panel registers: the fields of PANS but PAN and the fields of PANC (R38). -/
structure Panel where
  fif : Bool
  dat : Bool
  rdy : Bool
  cmnd : BitVec 3
  rpan : Byte
  ctlDat : Bool
  ctlCmnd : BitVec 3
  ctlRpan : Byte
  deriving DecidableEq, Repr

/-- The run state (R48). -/
inductive RunState where
  | running
  | stopped
  | opcom
  deriving DecidableEq, Repr

/-- A word of memory on which the memory system reports a parity error: the access it fails, whether the error is fatal (of
several bits) and the error code (R43, spec/60_exceptions.md R483; log 54). -/
structure BadWord where
  addr : PhysAddr
  kind : AccessKind
  fatal : Bool
  code : BitVec 5
  deriving DecidableEq, Repr

/-- The state of the CPU, its memory and the part of the devices that it sees. -/
structure State where
  /-- The parameters of the installation (spec/00_scope.md R5); no step changes them. -/
  cfg : Config
  /-- The registers of the sixteen levels (R21). -/
  levels : Vector LevelRegs 16
  /-- STS bits 11-8: the current program level (R27). -/
  pil : Level
  /-- STS bit 15. -/
  ioni : Bool
  /-- STS bit 14. -/
  poni : Bool
  /-- STS bit 13. -/
  sexi : Bool
  pid : Word
  pie : Word
  iic : BitVec 4
  /-- Bits 10-1; the others are 0 (R33). -/
  iie : Word
  pvl : Level
  pcr : Vector Pcr 16
  pgs : Pgs
  panel : Panel
  opr : Word
  lmp : Word
  pes : Word
  pea : Word
  /-- PES and PEA hold an error that has not been read (R43). -/
  peLocked : Bool
  eccr : BitVec 5
  /-- The control store words that TRR CS has written, by address, rising; the others hold the standard
  microprogram (R45). -/
  cs : List (Nat × Word)
  stbnk : Byte
  stsrt : Word
  cmbnk : Byte
  run : RunState
  /-- Physical memory: the bytes that are not 0, by byte address, rising (log 1). The word at physical address `pa`
  is the bytes `2 * pa` (bits 15-8) and `2 * pa + 1` (bits 7-0). -/
  mem : List Host.Cell
  /-- The page tables `PTAB[0..2047]` in the same form (spec/20_memory.md R99). -/
  ptab : List Host.Cell
  /-- The words on which the memory system fails an access; events from outside change it, no step does (R483; log 54). -/
  badWords : List BadWord
  /-- The ident codes of the devices that request an interrupt on levels 10 to 13, the nearest to the CPU first
  (spec/60_exceptions.md R488). -/
  req10 : List (BitVec 9)
  req11 : List (BitVec 9)
  req12 : List (BitVec 9)
  req13 : List (BitVec 9)
  /-- The I/O transfers so far, the latest first (R496; log 13). -/
  ioHistory : List IoTransfer
  /-- The model's own: the number of the next free value (log 8). -/
  free : Nat
  /-- The model's own: how many elements an interruptible instruction handles before its poll stops it (log 9). -/
  pollAfter : Nat
  deriving DecidableEq, Repr

/-- Why the machine takes no step. -/
inductive Fault where
  /-- Raised by `step` when WAIT with the interrupt system off has stopped the machine (spec/60_exceptions.md R500).
  Safe: the hardware executes nothing either until the operator restarts it (log 11). -/
  | stopped
  /-- Raised by `step` when the OPCOM instruction or button has given the machine to the operator (R499). Safe: no
  instruction executes (log 11). -/
  | operatorHasControl
  deriving DecidableEq, Repr

/-- Why an instruction has no meaning here. All are safe: the model stops where the hardware does something the spec
does not say. -/
inductive Refusal where
  /-- Raised by the dispatch for an instruction without a meaning; no arm does so now. -/
  | notModelled (mnemonic : String)
  /-- Raised when an internal interrupt of code 2, 3, 4, 6, 0o10 or 0o11 can neither be taken nor ignored
  (spec/60_exceptions.md R476, R477, D46: `refuse`; log 18). -/
  | undeliverable (code : BitVec 4)
  /-- Raised by TRA, TRR, MCL, MST for a code that names no register in their column (spec/48_privileged.md R378:
  `refuse`; log 26). -/
  | noSuchInternalRegister (code : BitVec 4)
  /-- Raised by TRR CS with bit 15 of X set (spec/10_state.md R45: not defined; log 7). -/
  | controlStoreAddress
  /-- Raised by the bit instructions for STS bits 8 to 15 (spec/45_argument_bit.md R301: `refuse`; log 27). -/
  | statusBitNotAddressable (bn : BitVec 4)
  /-- Raised by BFILL, MOVB, MOVBF for a descriptor with bit 13 set (spec/46_byte_block_version.md R323: `refuse`;
  log 28). -/
  | byteDescriptorBit13
  /-- Raised by the decimal instructions for a descriptor with bit 14 set (spec/47_decimal_stack.md R340: refuses;
  log 31). -/
  | decimalDescriptorBit14
  /-- Raised by the decimal instructions for a BCD field of odd length (R341: refuse; log 31). -/
  | decimalOddLength
  /-- Raised by CHREENTPAGES (spec/49_sintran3.md R425: `refuse`; log 38). -/
  | chreentpagesNotDescribed
  deriving DecidableEq, Repr

/-- A level whose registers are all zero. -/
def LevelRegs.zero : LevelRegs :=
  { d := 0, p := 0, b := 0, l := 0, a := 0, t := 0, x := 0, sts := 0 }

/-- The installation the reset state takes (DESIGN CHOICE, log 5): the spec leaves each of these open. -/
def resetConfig : Config :=
  { fp48 := false
    ptMode := .sixteen
    skpOrder := .drMinusSr
    memMap := [{ base := 0, size := 16777216 }]
    pageRules := .reference
    cleptDisp := 4
    versnPrint := 0
    versnMicroprogram := 0
    installationNumber := Vector.replicate 16 0
    ald := 0
    panelInstalled := false
    bitIndex := .fromBit0
    rtBitmapOrder := .fromBit0
    cnrekLoadsA := false
    pageMapOrder := .fromBit0
    pageMapPhysical := false }

/-- The machine right after power-up of an installation (spec/10_state.md R52, spec/70_reset_and_hazards.md R520):
PID and PIE reset, level 0 selected; the other values as R52 and the log name them (logs 2 to 9). -/
def State.resetWith (cfg : Config) : State :=
  { cfg := cfg
    levels := Vector.replicate 16 LevelRegs.zero
    pil := 0
    ioni := false
    poni := false
    sexi := false
    pid := 0
    pie := 0
    iic := 0
    iie := 0
    pvl := 0
    pcr := Vector.replicate 16 { pt := 0, apt := 0, ring := 0 }
    pgs := { ff := false, pm := false, pt := 0, vpn := 0 }
    panel :=
      { fif := false, dat := false, rdy := false, cmnd := 0, rpan := 0, ctlDat := false, ctlCmnd := 0, ctlRpan := 0 }
    opr := 0
    lmp := 0
    pes := 0
    pea := 0
    peLocked := false
    eccr := 0
    cs := []
    stbnk := 0
    stsrt := 0
    cmbnk := 0
    run := .running
    mem := []
    ptab := []
    badWords := []
    req10 := []
    req11 := []
    req12 := []
    req13 := []
    ioHistory := []
    free := 0
    pollAfter := 65536 }

/-- The machine right after reset. -/
def State.reset : State := State.resetWith resetConfig

end Sys2Proof.Machine
end

