-- ==== Sys2Proof/Machine/Ops.lean ====
section
/-! DEFINITION. The named operations every meaning is built from: registers and flags of the current level, level
selection and internal interrupts (spec/60_exceptions.md), page translation and the access primitives
(spec/20_memory.md), the privilege check, free values. -/

namespace Sys2Proof.Machine

/-- What one step answers. -/
abbrev Out := Host.Outcome State Fault Refusal

/-- The result of a part of an instruction: a value and the state to go on in, or the end of the instruction. -/
inductive Res (α : Type) where
  | ok (a : α) (s : State)
  | stop (o : Out)

/-- Go on with the rest of a part. -/
def Res.bind {α β : Type} (r : Res α) (k : α → State → Res β) : Res β :=
  match r with
  | .ok a s => k a s
  | .stop o => .stop o

/-- Go on with the rest of the instruction. -/
def Res.andThen {α : Type} (r : Res α) (k : α → State → Out) : Out :=
  match r with
  | .ok a s => k a s
  | .stop o => o

/-! ### Registers -/

/-- One register of a level (spec/10_state.md R22). -/
def LevelRegs.get (r : LevelRegs) (c : Reg) : Word :=
  match c with
  | .d => r.d
  | .p => r.p
  | .b => r.b
  | .l => r.l
  | .a => r.a
  | .t => r.t
  | .x => r.x

/-- The registers of a level with one replaced. -/
def LevelRegs.put (r : LevelRegs) (c : Reg) (v : Word) : LevelRegs :=
  match c with
  | .d => { r with d := v }
  | .p => { r with p := v }
  | .b => { r with b := v }
  | .l => { r with l := v }
  | .a => { r with a := v }
  | .t => { r with t := v }
  | .x => { r with x := v }

/-- The register set of a program level (R21). -/
def State.level (s : State) (l : Level) : LevelRegs := s.levels[l.toNat]'l.isLt

/-- The state with the register set of a level replaced. -/
def State.setLevel (s : State) (l : Level) (r : LevelRegs) : State :=
  { s with levels := s.levels.set l.toNat r l.isLt }

/-- A register of the current level (R21). -/
def State.reg (s : State) (c : Reg) : Word := (s.level s.pil).get c

/-- The state with a register of the current level replaced. -/
def State.setReg (s : State) (c : Reg) (v : Word) : State :=
  s.setLevel s.pil ((s.level s.pil).put c v)

/-- The low status byte of the current level (R26). -/
def State.stsLow (s : State) : Byte := (s.level s.pil).sts

/-- The state with the low status byte of the current level replaced. -/
def State.setStsLow (s : State) (v : Byte) : State :=
  s.setLevel s.pil { s.level s.pil with sts := v }

/-- During an instruction P of the current level holds its address, `pc` (R23). -/
def State.pc (s : State) : Word := s.reg .p

/-- `pc <- (pc + 1) mod 2^16`: the end of an instruction that transfers no control (R23). -/
def State.advance (s : State) : State := s.setReg .p (s.pc + 1)

/-- `pc <- (pc + 2) mod 2^16`: a skip (R23). -/
def State.skip (s : State) : State := s.setReg .p (s.pc + 2)

/-- Transfer of control. -/
def State.jump (s : State) (target : Word) : State := s.setReg .p target

/-! ### The status register -/

/-- The flags of the low status byte (R27). -/
inductive Flag where
  | ptm
  | tg
  | k
  | z
  | q
  | o
  | c
  | m
  deriving DecidableEq, Repr

/-- The bit number of a flag (R27). -/
def flagBit (f : Flag) : Nat :=
  match f with
  | .ptm => 0
  | .tg => 1
  | .k => 2
  | .z => 3
  | .q => 4
  | .o => 5
  | .c => 6
  | .m => 7

/-- A flag of the current level. -/
def State.flag (s : State) (f : Flag) : Bool := s.stsLow.getLsbD (flagBit f)

/-- The state with a flag of the current level replaced. -/
def State.setFlag (s : State) (f : Flag) (b : Bool) : State :=
  s.setStsLow (putBit s.stsLow (flagBit f) b)

/-- STS bits 15-8: IONI PONI SEXI N100 PIL; N100 is 1 (R27). -/
def State.stsHigh (s : State) : Byte :=
  BitVec.ofBool s.ioni ++ BitVec.ofBool s.poni ++ BitVec.ofBool s.sexi ++ 1#1 ++ s.pil

/-- All sixteen bits of STS (R26). -/
def State.stsWord (s : State) : Word := s.stsHigh ++ s.stsLow

/-! ### Level selection and internal interrupts -/

/-- `req = PID & PIE` (spec/60_exceptions.md R471). -/
def State.requests (s : State) : Word := s.pid &&& s.pie

/-- `top`: the highest requesting level, or 0 (R471). -/
def State.topLevel (s : State) : Level := BitVec.ofNat 4 (highestBelow s.requests 16)

/-- The change from the current level to another: nothing is copied, PVL receives the level left (R472). -/
def State.changeLevel (s : State) (n : Level) : State := { s with pvl := s.pil, pil := n }

/-- Level selection between two instructions (R471). -/
def State.selectLevel (s : State) : State :=
  if s.ioni && s.topLevel != s.pil then s.changeLevel s.topLevel else s

/-- The PID bits that requesting devices hold at 1: `PID[l]` is 1 while some device requests on level `l` (R488). -/
def State.deviceLines (s : State) : Word :=
  (bitWord (!s.req10.isEmpty) <<< 10) ||| (bitWord (!s.req11.isEmpty) <<< 11)
    ||| (bitWord (!s.req12.isEmpty) <<< 12) ||| (bitWord (!s.req13.isEmpty) <<< 13)

/-- The state with PID written; the bits of requesting devices stay 1 (R488; log 13). -/
def State.setPid (s : State) (w : Word) : State := { s with pid := w ||| s.deviceLines }

/-- Giving up the priority of the current level, the return from an interrupt: its PID bit is reset and the highest
requesting level entered (R490, spec/48_privileged.md R390). -/
def State.giveUpPriority (s : State) : State := (s.setPid (putBit s.pid s.pil.toNat false)).selectLevel

/-- The IIE bit of an internal interrupt code (R476). -/
def State.interruptEnabled (s : State) (code : BitVec 4) : Bool := s.iie.getLsbD code.toNat

/-- The request of an internal interrupt: IIC and PID bit 14 (R477). -/
def State.postInternal (s : State) (code : BitVec 4) : State :=
  { s with iic := code, pid := putBit s.pid 14 true }

/-- Taking an internal interrupt: the request and the selection of level 14 (R477). The saved P is the P of the level
that is left (R472). -/
def State.takeInternal (s : State) (code : BitVec 4) : State := (s.postInternal code).selectLevel

/-- `raise Internal(c)` for codes 1, 5, 7 and 0o12, after the instruction: P is the next address (R492); with the
IIE bit clear nothing happens, and where level 14 cannot be entered the request stays pending (R476, R477, D46). -/
def State.raiseAfter (s : State) (code : BitVec 4) : State :=
  if s.interruptEnabled code then s.takeInternal code else s

/-- Level 14 can be entered at once (R477). -/
def State.canEnter14 (s : State) : Bool := s.ioni && s.pie.getLsbD 14 && decide (s.pil < 14)

/-- `raise Internal(c)` for codes 2, 3, 4, 6, 0o10 and 0o11, which end the instruction with P at its address (R492);
an interrupt that cannot be delivered is refused (R476, R477, D46; log 18). -/
def raiseAbort (code : BitVec 4) (s : State) : Out :=
  if s.interruptEnabled code && s.canEnter14 then .next (s.takeInternal code)
  else .refused (.undeliverable code)

/-! ### Free values -/

/-- A fresh `any value` (spec/00_scope.md R12; log 8). -/
def freshWord (s : State) : Res Word := .ok (Config.freeWord s.free) { s with free := s.free + 1 }

/-! ### Privilege -/

/-- The paging control register of the current level (spec/10_state.md R35). -/
def State.curPcr (s : State) : Pcr := s.pcr[s.pil.toNat]'s.pil.isLt

/-- User mode: paging on and ring 0 or 1 (spec/60_exceptions.md R482, R493). -/
def State.userMode (s : State) : Bool := s.poni && decide (s.curPcr.ring < 2)

/-- A privileged instruction in user mode is not executed and raises code 6 (R482). -/
def privileged (s : State) (k : Out) : Out := if s.userMode then raiseAbort 6 s else k

/-! ### Translation -/

/-- The normal or the alternative page table (spec/20_memory.md R93). -/
inductive Table where
  | pt
  | apt
  deriving DecidableEq, Repr

/-- The table of accesses of the alternative class: APT in page table mode (PTM = 1), else PT (R93, D30). -/
def State.dataTable (s : State) : Table := if s.flag .ptm then .apt else .pt

/-- The page table number (R101 a). -/
def State.tableNumber (s : State) (tbl : Table) : BitVec 4 :=
  match tbl with
  | .pt => s.curPcr.pt
  | .apt => s.curPcr.apt

/-- The virtual page, `va[15:10]` (R101 b). -/
def pageOf (va : Word) : BitVec 6 := va.extractLsb' 10 6

/-- The entry number of a table and a virtual page; in four page table mode the tables are numbers 12 to 15 of the
sixteen (R99). -/
def entryNumber (mode : PtMode) (t : BitVec 4) (vpn : BitVec 6) : BitVec 10 :=
  match mode with
  | .sixteen => t ++ vpn
  | .four => 3#2 ++ t.extractLsb' 0 2 ++ vpn

/-- Word 0 of a page-table entry (R100). -/
def State.entryWord0 (s : State) (e : BitVec 10) : Word := Memory.word s.ptab (2 * e.toNat)

/-- Word 1 of a page-table entry (R100). -/
def State.entryWord1 (s : State) (e : BitVec 10) : Word := Memory.word s.ptab (2 * e.toNat + 1)

/-- The permit bit an access needs (R102). -/
def permitBit (kind : AccessKind) : Nat :=
  match kind with
  | .write => 15
  | .read => 14
  | .fetch => 13

/-- The judgement of an entry by R102; in normal mode the page is bits 8-0 of the one word (R100; log 14). -/
def judgeReference (w0 w1 : Word) (kind : AccessKind) (ring : BitVec 2) (sexi : Bool) : PageVerdict :=
  if w0.extractLsb' 13 3 = 0 then .pageFault
  else if w0.getLsbD (permitBit kind) = false then .violation true
  else if ring < w0.extractLsb' 9 2 then .violation false
  else .allowed (if sexi then w1.extractLsb' 0 14 else (w0.extractLsb' 0 9).setWidth 14) true (kind == .write)

/-- A verdict within the physical addresses of the mode: 19 bits in normal mode, so a page of nine (R84, R101 c). -/
def limitPage (sexi : Bool) (v : PageVerdict) : PageVerdict :=
  match v with
  | .allowed page setPgu setWip =>
    .allowed (if sexi then page else (page.extractLsb' 0 9).setWidth 14) setPgu setWip
  | .pageFault => .pageFault
  | .violation pm => .violation pm

/-- The judgement of an entry under the rules of the installation (R101, D3; log 14). -/
def judgePage (cfg : Config) (w0 w1 : Word) (kind : AccessKind) (ring : BitVec 2) (sexi : Bool) : PageVerdict :=
  match cfg.pageRules with
  | .reference => judgeReference w0 w1 kind ring sexi
  | .unstated => limitPage sexi (Config.openPageRules w0 w1 kind ring sexi)

/-- Word 0 of an entry with PGU (bit 11) and WIP (bit 12) set as the verdict says (R100, R101 d). -/
def markEntry (w0 : Word) (setPgu setWip : Bool) : Word :=
  w0 ||| (bitWord setPgu <<< 11) ||| (bitWord setWip <<< 12)

/-- PGS as a refused access leaves it (R101 e). In four page table mode the number has two bits. -/
def faultPgs (s : State) (kind : AccessKind) (tbl : Table) (va : Word) (pm : Bool) : Pgs :=
  { ff := kind == .fetch
    pm := pm
    pt := match s.cfg.ptMode with
      | .sixteen => s.tableNumber tbl
      | .four => (s.tableNumber tbl) &&& 3
    vpn := pageOf va }

/-- Page fault or protect violation: PGS is written and code 3 or 2 raised (spec/60_exceptions.md R478, R479). -/
def raisePaging (code : BitVec 4) (kind : AccessKind) (tbl : Table) (va : Word) (pm : Bool) (s : State) : Out :=
  raiseAbort code { s with pgs := faultPgs s kind tbl va pm }

/-- `Translate`: the physical address of a virtual one, with PGU and WIP kept (spec/20_memory.md R101). -/
def translate (kind : AccessKind) (tbl : Table) (va : Word) (s : State) : Res PhysAddr :=
  let e := entryNumber s.cfg.ptMode (s.tableNumber tbl) (pageOf va)
  match judgePage s.cfg (s.entryWord0 e) (s.entryWord1 e) kind s.curPcr.ring s.sexi with
  | .allowed page setPgu setWip =>
    .ok (page ++ va.extractLsb' 0 10)
      { s with ptab := Memory.setWord s.ptab (2 * e.toNat) (markEntry (s.entryWord0 e) setPgu setWip) }
  | .pageFault => .stop (raisePaging 3 kind tbl va false s)
  | .violation pm => .stop (raisePaging 2 kind tbl va pm s)

/-! ### Access -/

/-- What an access reaches: a word of memory, a word of the page tables, or nothing, where memory is missing or fails and
the error is not reported (R96, R99, R105). -/
inductive Target where
  | mem (pa : PhysAddr)
  | ptab (index : BitVec 11)
  | absent
  deriving DecidableEq, Repr

/-- `MemExists` (R105, D1). -/
def Config.memExists (cfg : Config) (pa : PhysAddr) : Bool :=
  cfg.memMap.any fun r => decide (r.base ≤ pa.toNat) && decide (pa.toNat < r.base + r.size)

/-- The page-table range of the table of R99. DESIGN CHOICE for four tables (log 56): clauses (a) to (c) of R99 name the range
from 0o174000 without regard to `PT_MODE`; the model takes the table's, from 0o177000, and 0o174000 to 0o176777 is memory. -/
def inTableRange (mode : PtMode) (offset : Word) : Bool :=
  match mode with
  | .sixteen => decide (0o174000#16 ≤ offset)
  | .four => decide (0o177000#16 ≤ offset)

/-- The page-table word at an offset of the range, offset - 0o174000 (R99). -/
def tableIndex (offset : Word) : BitVec 11 := offset.extractLsb' 0 11

/-- The state after a reported memory error latches PES and PEA, unless they are locked: FCH, DMA, FAT, the error code and
the physical address (spec/10_state.md R43). -/
def State.latchError (s : State) (fch dma fat : Bool) (code : BitVec 5) (pa : PhysAddr) : State :=
  if s.peLocked then s
  else
    { s with
      pes := BitVec.ofBool fch ++ BitVec.ofBool dma ++ BitVec.ofBool fat ++ code ++ bankOf pa
      pea := offsetOf pa
      peLocked := true }

/-- The latch of an access to missing memory, which is no DMA reference; FAT and the error code are not stated
(spec/10_state.md R43, spec/60_exceptions.md R484; log 17). -/
def State.latchMemoryError (s : State) (kind : AccessKind) (pa : PhysAddr) : State :=
  if s.peLocked then s
  else
    let v := Config.freeWord s.free
    ({ s with free := s.free + 1 } : State).latchError (kind == .fetch) false (v.getLsbD 5) (v.extractLsb' 0 5) pa

/-- The parity error that the memory system reports on an access, if any (spec/60_exceptions.md R483; log 54). -/
def State.badWord (s : State) (kind : AccessKind) (pa : PhysAddr) : Option BadWord :=
  s.badWords.find? fun w => w.addr == pa && w.kind == kind

/-- A parity error is reported: its IIE bit is set and ECCR.DIS is not (spec/60_exceptions.md R476, spec/10_state.md
R44). -/
def State.parityEnabled (s : State) : Bool := s.interruptEnabled 0o10 && !s.eccr.getLsbD 3

/-- An access that goes to memory: present; or missing, code 0o11; or with bad parity, code 0o10; or, where the error is
not reported, an access without effect (spec/20_memory.md R105, spec/60_exceptions.md R476, R483, R484; logs 20, 47, 54). -/
def resolveMemory (kind : AccessKind) (pa : PhysAddr) (s : State) : Res Target :=
  if Config.memExists s.cfg pa then
    match s.badWord kind pa with
    | none => .ok (.mem pa) s
    | some w =>
      if s.parityEnabled then .stop (raiseAbort 0o10 (s.latchError (kind == .fetch) false w.fatal w.code pa))
      else .ok .absent s
  else if s.interruptEnabled 0o11 then .stop (raiseAbort 0o11 (s.latchMemoryError kind pa))
  else .ok .absent s

/-- An untranslated physical access (R98): the page tables in their range of bank 0 (R99;
with four tables log 56). -/
def resolvePhys (kind : AccessKind) (pa : PhysAddr) (s : State) : Res Target :=
  if bankOf pa = 0 && inTableRange s.cfg.ptMode (offsetOf pa) then .ok (.ptab (tableIndex (offsetOf pa))) s
  else resolveMemory kind pa s

/-- An access to a virtual address (R96): bank 0 with paging off (R97); with paging on the page tables for ring 3 in
their range (R99; logs 15 and 56), else through the table. -/
def resolve (kind : AccessKind) (tbl : Table) (va : Word) (s : State) : Res Target :=
  if s.poni = false then resolvePhys kind (physAddr 0 va) s
  else if s.curPcr.ring = 3 && inTableRange s.cfg.ptMode va then .ok (.ptab (tableIndex va)) s
  else (translate kind tbl va s).bind (resolveMemory kind)

/-- The word at a target and the state after the read; memory that is missing or fails reads as any value (R105). -/
def peek (t : Target) (s : State) : Word × State :=
  match t with
  | .mem pa => (Memory.word s.mem pa.toNat, s)
  | .ptab i => (Memory.word s.ptab i.toNat, s)
  | .absent => (Config.freeWord s.free, { s with free := s.free + 1 })

/-- Reading a word at a target. -/
def load (t : Target) (s : State) : Res Word := .ok (peek t s).1 (peek t s).2

/-- The state after writing a word at a target; a write to memory that is missing or fails is dropped (R476). -/
def store (t : Target) (v : Word) (s : State) : State :=
  match t with
  | .mem pa => { s with mem := Memory.setWord s.mem pa.toNat v }
  | .ptab i => { s with ptab := Memory.setWord s.ptab i.toNat v }
  | .absent => s

/-- `Rd(a)` (R96). -/
def readVirt (tbl : Table) (va : Word) (s : State) : Res Word := (resolve .read tbl va s).bind load

/-- `Wr(a, v)` (R96). -/
def writeVirt (tbl : Table) (va : Word) (v : Word) (s : State) : Res Unit :=
  (resolve .write tbl va s).bind fun t s => .ok () (store t v s)

/-- `PhysRd(pa)` (R98). -/
def readPhys (pa : PhysAddr) (s : State) : Res Word := (resolvePhys .read pa s).bind load

/-- `PhysWr(pa, v)` (R98). -/
def writePhys (pa : PhysAddr) (v : Word) (s : State) : Res Unit :=
  (resolvePhys .write pa s).bind fun t s => .ok () (store t v s)

/-- Instruction fetch, always through PT (R93, R96). -/
def fetchWord (va : Word) (s : State) : Res Word := (resolve .fetch .pt va s).bind load

/-- Where two words are checked before either is written (D20; log 44). -/
def resolve2 (kind : AccessKind) (tbl : Table) (va1 va2 : Word) (s : State) : Res (Target × Target) :=
  (resolve kind tbl va1 s).bind fun t1 s => (resolve kind tbl va2 s).bind fun t2 s => .ok (t1, t2) s

/-- A part of an instruction for each element of a list, in order. -/
def mapRes {α β : Type} (f : α → State → Res β) : List α → State → Res (List β)
  | [], s => .ok [] s
  | x :: xs, s => (f x s).bind fun y s => (mapRes f xs s).bind fun ys s => .ok (y :: ys) s

/-- The state after writing a list of words at a list of targets, in order. -/
def storeList : List Target → List Word → State → State
  | t :: ts, v :: vs, s => storeList ts vs (store t v s)
  | _, _, s => s

/-- Words at consecutive virtual addresses, ascending (R83, D20). -/
def consecutive (va : Word) (n : Nat) : List Word := (List.range n).map fun i => va + BitVec.ofNat 16 i

/-- Reading a list of words, one after the other. -/
def readList (tbl : Table) (vas : List Word) (s : State) : Res (List Word) := mapRes (readVirt tbl) vas s

/-- Writing a list of words, all checked before the first is written (D20; log 44). -/
def writeList (tbl : Table) (vas : List Word) (vs : List Word) (s : State) : Res Unit :=
  (mapRes (resolve .write tbl) vas s).bind fun ts s => .ok () (storeList ts vs s)

/-! ### Checks first, accesses in order -/

/-- The two passes of an instruction whose later accesses can meet its own writes: all checks come before the first write
(spec/60_exceptions.md R492, D20), then the accesses are made in the order of its pseudocode (R111). -/
inductive Pass where
  | check
  | perform
  deriving DecidableEq, Repr

/-- A store, which the check pass leaves out. -/
def storeIn (pass : Pass) (t : Target) (v : Word) (s : State) : State :=
  match pass with
  | .check => s
  | .perform => store t v s

/-- `Wr(a, v)` in a pass (R96). -/
def writeVirtIn (pass : Pass) (tbl : Table) (va : Word) (v : Word) (s : State) : Res Unit :=
  (resolve .write tbl va s).bind fun t s => .ok () (storeIn pass t v s)

/-- `PhysWr(pa, v)` in a pass (R98). -/
def writePhysIn (pass : Pass) (pa : PhysAddr) (v : Word) (s : State) : Res Unit :=
  (resolvePhys .write pa s).bind fun t s => .ok () (storeIn pass t v s)

/-- An internal interrupt with the registers and memory of `s` and the page tables of `u`. -/
def withoutWrites (s u : State) (o : Out) : Out :=
  match o with
  | .next t => .next { t with levels := s.levels, mem := s.mem, ptab := u.ptab }
  | .fault f => .fault f
  | .refused r => .refused r

/-- A part of an instruction: refused by its check pass it ends there; else its accesses are made in order, from the state
before the checks. An access that only the part's own writes to the page tables have made one that is refused ends it without
these writes, with the page-table marks of the check pass (D20; log 44). -/
def inOrder {α : Type} (part : Pass → State → Res α) (s : State) : Res α :=
  match part .check s with
  | .stop o => .stop o
  | .ok _ u =>
    match part .perform s with
    | .ok a t => .ok a t
    | .stop o => .stop (withoutWrites s u o)

end Sys2Proof.Machine
end

