-- ==== Sys2Proof/Machine/Flags.lean ====
section
/-! DEFINITION. The flag computations: the adder (spec/40_register.md R173), the multiplier
(spec/41_memory_transfer.md R216), the comparison of SKP (spec/44_jump_mon_skip.md R280) and the error flag
(spec/60_exceptions.md R481). -/

namespace Sys2Proof.Machine

/-- `sum17` of R173. -/
def adderSum (x y : Word) (cin : Bool) : BitVec 17 := x.setWidth 17 + y.setWidth 17 + (BitVec.ofBool cin).setWidth 17

/-- `sum17[15:0]`. -/
def adderValue (x y : Word) (cin : Bool) : Word := (adderSum x y cin).setWidth 16

/-- `sum17[16]`. -/
def adderCarry (x y : Word) (cin : Bool) : Bool := (adderSum x y cin).getLsbD 16

/-- Signed overflow: operands of one sign, a result of the other (R173, D12). -/
def adderOverflow (x y : Word) (cin : Bool) : Bool :=
  x.msb == y.msb && (adderValue x y cin).msb != x.msb

/-- Q and O after an operation that overflows or not: Q is dynamic, O static (R173). -/
def State.setOverflow (s : State) (ovf : Bool) : State :=
  (s.setFlag .q ovf).setFlag .o (s.flag .o || ovf)

/-- C, Q and O of an addition (R173). -/
def State.setAdderFlags (s : State) (x y : Word) (cin : Bool) : State :=
  (s.setFlag .c (adderCarry x y cin)).setOverflow (adderOverflow x y cin)

/-- The signed product of two words, exact. -/
def signedProduct (x y : Word) : Int := x.toInt * y.toInt

/-- The product has an absolute value greater than 32767 (spec/41_memory_transfer.md R216). -/
def productOverflow (x y : Word) : Bool := decide (32767 < (signedProduct x y).natAbs)

/-- The instruction wrote 1 into Z of its own level: the error flag interrupt is raised at its end (R481, D47). -/
def State.setErrorAndRaise (s : State) : State := (s.setFlag .z true).raiseAfter 5

end Sys2Proof.Machine
end

