-- ==== Sys2Proof/Machine/Operands.lean ====
section
/-! DEFINITION. The operand forms: the eight addressing modes (spec/20_memory.md R90, R93), multi-word operands
(spec/41_memory_transfer.md R201), register operands (spec/40_register.md R170, R190). -/

namespace Sys2Proof.Machine

/-- An operand in memory: its effective address and the table of its accesses. -/
structure Place where
  addr : Word
  tbl : Table
  deriving DecidableEq, Repr

/-- `base` of R90: (B) + d with ,B, else (P) + d. -/
def baseAddress (m : MemOperand) (s : State) : Word := (if m.b then s.reg .b else s.pc) + sext8 m.disp

/-- The effective address and its table in the modes without indirection (R90, R93). -/
def directPlace (m : MemOperand) (s : State) : Place :=
  match m.x, m.b with
  | false, false => { addr := s.pc + sext8 m.disp, tbl := .pt }
  | false, true => { addr := s.reg .b + sext8 m.disp, tbl := s.dataTable }
  | true, false => { addr := s.reg .x + sext8 m.disp, tbl := s.dataTable }
  | true, true => { addr := s.reg .b + s.reg .x + sext8 m.disp, tbl := s.dataTable }

/-- The table of an indirect address fetch: PT for the P indirect modes (R93). -/
def pointerTable (m : MemOperand) (s : State) : Table := if m.b then s.dataTable else .pt

/-- The effective address of a memory reference instruction (R90): one level of indirection, post-indexed. -/
def effAddr (m : MemOperand) (s : State) : Res Place :=
  if m.i then
    (readVirt (pointerTable m s) (baseAddress m s) s).bind fun ptr s =>
      .ok { addr := ptr + (if m.x then s.reg .x else 0), tbl := s.dataTable } s
  else .ok (directPlace m s) s

/-- The operand word of a memory reference instruction. -/
def readOperand (m : MemOperand) (s : State) : Res Word :=
  (effAddr m s).bind fun p s => readVirt p.tbl p.addr s

/-- Writing the operand word of a memory reference instruction. -/
def writeOperand (m : MemOperand) (v : Word) (s : State) : Res Unit :=
  (effAddr m s).bind fun p s => writeVirt p.tbl p.addr v s

/-- Two words at `a` and `a + 1` (spec/41_memory_transfer.md R201). -/
def readTwo (tbl : Table) (a : Word) (s : State) : Res (Word × Word) :=
  (readVirt tbl a s).bind fun v1 s => (readVirt tbl (a + 1) s).bind fun v2 s => .ok (v1, v2) s

/-- Writing two words at `a` and `a + 1`. -/
def writeTwo (tbl : Table) (a : Word) (v1 v2 : Word) (s : State) : Res Unit :=
  (resolve2 .write tbl a (a + 1) s).bind fun t s => .ok () (store t.2 v2 (store t.1 v1 s))

/-- Three words at `a`, `a + 1` and `a + 2`. -/
def readThree (tbl : Table) (a : Word) (s : State) : Res (Word × Word × Word) :=
  (readVirt tbl a s).bind fun v1 s => (readVirt tbl (a + 1) s).bind fun v2 s =>
    (readVirt tbl (a + 2) s).bind fun v3 s => .ok (v1, v2, v3) s

/-- Writing three words at `a`, `a + 1` and `a + 2`. -/
def writeThree (tbl : Table) (a : Word) (v1 v2 v3 : Word) (s : State) : Res Unit :=
  (resolve2 .write tbl a (a + 1) s).bind fun t s => (resolve .write tbl (a + 2) s).bind fun t3 s =>
    .ok () (store t3 v3 (store t.2 v2 (store t.1 v1 s)))

/-- Reading a word and writing back to the same place, in a pass. Both accesses are checked before the word is loaded, which
cannot be seen: a word reached through a page-table entry is no word of the page tables (`resolve_same_word`). -/
def modifyIn (pass : Pass) (tbl : Table) (a : Word) (f : Word → Word) (s : State) : Res Word :=
  (resolve .read tbl a s).bind fun tr s => (resolve .write tbl a s).bind fun tw s =>
    (load tr s).bind fun v s => .ok v (storeIn pass tw (f v) s)

/-- The same where no other access follows. -/
def modifyWord (tbl : Table) (a : Word) (f : Word → Word) (s : State) : Res Word := modifyIn .perform tbl a f s

/-- The same at a physical address. -/
def modifyPhys (pa : PhysAddr) (f : Word → Word) (s : State) : Res Word :=
  (resolvePhys .read pa s).bind fun tr s => (resolvePhys .write pa s).bind fun tw s =>
    (load tr s).bind fun v s => .ok v (store tw (f v) s)

/-- A register named by a three-bit field, code 0 reading as zero. In the state after `advance` P reads as `pc + 1`,
which is the operand value of R170. -/
def State.regOr0 (s : State) (r : Option Reg) : Word :=
  match r with
  | none => 0
  | some c => s.reg c

/-- Writing the destination register; code 0 writes nothing (R172). In the state after `advance` a write to P is the
jump of R190. -/
def State.setRegOr0 (s : State) (r : Option Reg) (v : Word) : State :=
  match r with
  | none => s
  | some c => s.setReg c v

/-- `S'` of R170: the source operand, complemented with CM1. -/
def sourceOperand (cm1 : Bool) (sr : Option Reg) (s : State) : Word :=
  if cm1 then ~~~(s.regOr0 sr) else s.regOr0 sr

/-- `Dv'` of R170: the destination operand, zero with CLD. -/
def destOperand (cld : Bool) (dr : Option Reg) (s : State) : Word :=
  if cld then 0 else s.regOr0 dr

end Sys2Proof.Machine
end

