-- ==== Sys2Proof/Machine/ArgumentBit.lean ====
section
/-! DEFINITION. The argument instructions and the bit instructions (spec/45_argument_bit.md). -/

namespace Sys2Proof.Machine

/-- A register set to the sign-extended argument (R291 to R295). -/
def setArgument (r : Reg) (num : BitVec 8) (s : State) : State := (s.setReg r (sext8 num)).advance

/-- The sign-extended argument added to a register, with C, Q, O (R296). -/
def addArgument (r : Reg) (num : BitVec 8) (s : State) : State :=
  ((s.setAdderFlags (s.reg r) (sext8 num) false).setReg r (adderValue (s.reg r) (sext8 num) false)).advance

/-- SAA (R292). -/
def execSaa (num : BitVec 8) (s : State) : Out := .next (setArgument .a num s)

/-- SAT (R293). -/
def execSat (num : BitVec 8) (s : State) : Out := .next (setArgument .t num s)

/-- SAB (R294). -/
def execSab (num : BitVec 8) (s : State) : Out := .next (setArgument .b num s)

/-- SAX (R295). -/
def execSax (num : BitVec 8) (s : State) : Out := .next (setArgument .x num s)

/-- AAA (R296). -/
def execAaa (num : BitVec 8) (s : State) : Out := .next (addArgument .a num s)

/-- AAB (R297). -/
def execAab (num : BitVec 8) (s : State) : Out := .next (addArgument .b num s)

/-- AAT (R298). -/
def execAat (num : BitVec 8) (s : State) : Out := .next (addArgument .t num s)

/-- AAX (R299). -/
def execAax (num : BitVec 8) (s : State) : Out := .next (addArgument .x num s)

/-- `reg` of R301: a register of the level or its low status byte. In the state after `advance` P reads as
`pc + 1` (D27). -/
def bitRegister (dr : StsOrReg) (s : State) : Word :=
  match dr with
  | .sts => s.stsLow.setWidth 16
  | .reg r => s.reg r

/-- `reg[bn]`. -/
def bitOperand (bn : BitVec 4) (dr : StsOrReg) (s : State) : Bool := (bitRegister dr s).getLsbD bn.toNat

/-- `reg[bn] <- b`; in the state after `advance` a write to P is a jump (D27). -/
def writeBit (bn : BitVec 4) (dr : StsOrReg) (b : Bool) (s : State) : State :=
  match dr with
  | .sts => s.setStsLow (putBit s.stsLow bn.toNat b)
  | .reg r => s.setReg r (putBit (s.reg r) bn.toNat b)

/-- Writing 1 into SSZ raises the error flag interrupt at the end of the instruction (R303, D47). -/
def raiseIfError (bn : BitVec 4) (dr : StsOrReg) (b : Bool) (s : State) : State :=
  if dr = .sts ∧ bn = 3 ∧ b = true then s.raiseAfter 5 else s

/-- Status bits 8 to 15 cannot be addressed (R301: refuse; log 27). The rest runs after `advance`. -/
def withBit (bn : BitVec 4) (dr : StsOrReg) (s : State) (k : State → State) : Out :=
  if dr = .sts ∧ 8 ≤ bn then .refused (.statusBitNotAddressable bn) else .next (k s.advance)

/-- BSET: the bit receives `b` (R302 to R305). -/
def setBitTo (bn : BitVec 4) (dr : StsOrReg) (b : Bool) (s : State) : State :=
  raiseIfError bn dr b (writeBit bn dr b s)

/-- BSTC, BSTA: the bit receives `b`, then K receives `k` (R310, R311). -/
def storeBit (bn : BitVec 4) (dr : StsOrReg) (b k : Bool) (s : State) : State :=
  raiseIfError bn dr b ((writeBit bn dr b s).setFlag .k k)

/-- BSET ZRO (R302). -/
def execBsetZro (bn : BitVec 4) (dr : StsOrReg) (s : State) : Out := withBit bn dr s (setBitTo bn dr false)

/-- BSET ONE (R303). -/
def execBsetOne (bn : BitVec 4) (dr : StsOrReg) (s : State) : Out := withBit bn dr s (setBitTo bn dr true)

/-- BSET BCM (R304). -/
def execBsetBcm (bn : BitVec 4) (dr : StsOrReg) (s : State) : Out :=
  withBit bn dr s fun s => setBitTo bn dr (!bitOperand bn dr s) s

/-- BSET BAC (R305). -/
def execBsetBac (bn : BitVec 4) (dr : StsOrReg) (s : State) : Out :=
  withBit bn dr s fun s => setBitTo bn dr (s.flag .k) s

/-- In the state after `advance`, one more word is skipped if the condition holds. -/
def skipIf (cond : Bool) (s : State) : State := if cond then s.advance else s

/-- BSKP ZRO (R306). -/
def execBskpZro (bn : BitVec 4) (dr : StsOrReg) (s : State) : Out :=
  withBit bn dr s fun s => skipIf (!bitOperand bn dr s) s

/-- BSKP ONE (R307). -/
def execBskpOne (bn : BitVec 4) (dr : StsOrReg) (s : State) : Out :=
  withBit bn dr s fun s => skipIf (bitOperand bn dr s) s

/-- BSKP BCM: the bit is the complement of K (R308; log 51). -/
def execBskpBcm (bn : BitVec 4) (dr : StsOrReg) (s : State) : Out :=
  withBit bn dr s fun s => skipIf (bitOperand bn dr s != s.flag .k) s

/-- BSKP BAC (R309). -/
def execBskpBac (bn : BitVec 4) (dr : StsOrReg) (s : State) : Out :=
  withBit bn dr s fun s => skipIf (bitOperand bn dr s == s.flag .k) s

/-- BSTC (R310). -/
def execBstc (bn : BitVec 4) (dr : StsOrReg) (s : State) : Out :=
  withBit bn dr s fun s => storeBit bn dr (!s.flag .k) true s

/-- BSTA (R311). -/
def execBsta (bn : BitVec 4) (dr : StsOrReg) (s : State) : Out :=
  withBit bn dr s fun s => storeBit bn dr (s.flag .k) false s

/-- BLDC (R312). -/
def execBldc (bn : BitVec 4) (dr : StsOrReg) (s : State) : Out :=
  withBit bn dr s fun s => s.setFlag .k (!bitOperand bn dr s)

/-- BLDA (R313). -/
def execBlda (bn : BitVec 4) (dr : StsOrReg) (s : State) : Out :=
  withBit bn dr s fun s => s.setFlag .k (bitOperand bn dr s)

/-- BANC (R314). -/
def execBanc (bn : BitVec 4) (dr : StsOrReg) (s : State) : Out :=
  withBit bn dr s fun s => s.setFlag .k (!bitOperand bn dr s && s.flag .k)

/-- BAND (R315). -/
def execBand (bn : BitVec 4) (dr : StsOrReg) (s : State) : Out :=
  withBit bn dr s fun s => s.setFlag .k (bitOperand bn dr s && s.flag .k)

/-- BORC (R316). -/
def execBorc (bn : BitVec 4) (dr : StsOrReg) (s : State) : Out :=
  withBit bn dr s fun s => s.setFlag .k (!bitOperand bn dr s || s.flag .k)

/-- BORA (R317). -/
def execBora (bn : BitVec 4) (dr : StsOrReg) (s : State) : Out :=
  withBit bn dr s fun s => s.setFlag .k (bitOperand bn dr s || s.flag .k)

end Sys2Proof.Machine
end

