-- ==== Sys2Proof/Machine/ByteBlock.lean ====
section
/-! DEFINITION. Byte, byte block, word block and version instructions (spec/46_byte_block_version.md). -/

namespace Sys2Proof.Machine

/-- A byte in memory: the word address and whether it is the right byte. -/
structure BytePlace where
  addr : Word
  odd : Bool
  deriving DecidableEq, Repr

/-- Byte addressing by T and X (R320): `wa` and the byte. -/
def textByte (s : State) : BytePlace :=
  { addr := s.reg .t + (s.reg .x >>> 1), odd := (s.reg .x).getLsbD 0 }

/-- Byte `i` of a field that starts at a word, on the left or right (R323). -/
def fieldByte (d1 : Word) (right : Bool) (i : Nat) : BytePlace :=
  let n := right.toNat + i
  { addr := d1 + BitVec.ofNat 16 (n / 2), odd := n % 2 == 1 }

/-- Reading a byte. -/
def readByte (tbl : Table) (p : BytePlace) (s : State) : Res Byte :=
  (readVirt tbl p.addr s).bind fun w s => .ok (byteOf p.odd w) s

/-- Storing a byte in a pass: the word is read and written (spec/20_memory.md R80); its other byte stays (R322). -/
def writeByteIn (pass : Pass) (tbl : Table) (p : BytePlace) (b : Byte) (s : State) : Res Word :=
  modifyIn pass tbl p.addr (fun w => putByte p.odd w b) s

/-- Storing a byte of BFILL, whose exceptions are those of the write alone (R324; log 28): the word is read where it is
written. -/
def fillByteIn (pass : Pass) (tbl : Table) (b : Byte) (p : BytePlace) (s : State) : Res Unit :=
  (resolve .write tbl p.addr s).bind fun t s => (load t s).bind fun w s =>
    .ok () (storeIn pass t (putByte p.odd w b) s)

/-- LBYT (R321). -/
def execLbyt (s : State) : Out :=
  (readByte s.dataTable (textByte s) s).andThen fun b s => .next (s.setReg .a (b.setWidth 16)).advance

/-- SBYT (R322). -/
def execSbyt (s : State) : Out :=
  (writeByteIn .perform s.dataTable (textByte s) (oddByte (s.reg .a)) s).andThen fun _ s => .next s.advance

/-! ### Byte block instructions -/

/-- A byte operand: D1, the start byte, the page table and the length of its descriptor (R323). -/
structure ByteField where
  start : Word
  right : Bool
  tbl : Table
  length : Nat
  deriving DecidableEq, Repr

/-- The operand of a byte descriptor (R323), with the page table of its accesses. -/
def byteOperand (tbl : Table) (d1 d2 : Word) : ByteField :=
  { start := d1
    right := d2.getLsbD 15
    tbl := tbl
    length := (d2.extractLsb' 0 12).toNat }

/-- The bytes `0 .. n-1` of an operand. -/
def ByteField.places (f : ByteField) (n : Nat) : List BytePlace := (List.range n).map (fieldByte f.start f.right)

/-- D1 of the descriptor that points after `n` bytes (R324, R325). -/
def descriptorWord1 (d1 d2 : Word) (n : Nat) : Word :=
  d1 + BitVec.ofNat 16 (((d2.getLsbD 15).toNat + n) / 2)

/-- D2 of that descriptor with a new field length; bits 14 to 12 stay (R324, R325). -/
def descriptorWord2 (d2 : Word) (n length : Nat) : Word :=
  BitVec.ofNat 1 (((d2.getLsbD 15).toNat + n) % 2) ++ d2.extractLsb' 12 3 ++ BitVec.ofNat 12 length

/-- A, D and X, T after `n` bytes have been moved (R325; log 29). -/
def State.afterByteMove (s : State) (n : Nat) : State :=
  let a := s.reg .a
  let d := s.reg .d
  let x := s.reg .x
  let t := s.reg .t
  (((s.setReg .a (descriptorWord1 a d n)).setReg .d (descriptorWord2 d n 0)).setReg .x
    (descriptorWord1 x t n)).setReg .t (descriptorWord2 t n n)

/-- The source of MOVB and MOVBF: A and D (R323), through APT when PTM = 1, else PT (spec/20_memory.md R93, D30); bit 14 of
D2 has no part in it (log 28). -/
def byteSource (s : State) : ByteField := byteOperand s.dataTable (s.reg .a) (s.reg .d)

/-- The destination of BFILL, MOVB and MOVBF: X and T (R323), through the table of R93 and D30 too (log 28). -/
def byteDest (s : State) : ByteField := byteOperand s.dataTable (s.reg .x) (s.reg .t)

/-- BFILL (R324). A byte store reads its word (spec/20_memory.md R80), but R324 names the exceptions of writes only, so the
read raises none: the model's reading of the two (DEDUCED, log 28). -/
def execBfill (s : State) : Out :=
  let x := s.reg .x
  let t := s.reg .t
  if t.getLsbD 13 then .refused .byteDescriptorBit13
  else
    let f := byteDest s
    (inOrder (fun pass => mapRes (fillByteIn pass f.tbl (oddByte (s.reg .a))) (f.places f.length)) s).andThen fun _ s =>
      .next ((s.setReg .x (descriptorWord1 x t f.length)).setReg .t (descriptorWord2 t f.length 0)).advance

/-- The number of bytes MOVB and MOVBF move (R325; log 29). -/
def moveCount (s : State) : Nat := min (byteSource s).length (byteDest s).length

/-- Bit 13 of a descriptor is set (R323: refuse; log 28). -/
def descriptorBit13 (s : State) : Bool := (s.reg .d).getLsbD 13 || (s.reg .t).getLsbD 13

/-- The accesses of MOVB: the source bytes, then the destination bytes, each ascending (R325; log 29). -/
def moveAll (src dst : ByteField) (n : Nat) (pass : Pass) (s : State) : Res (List Word) :=
  (mapRes (readByte src.tbl) (src.places n) s).bind fun bs s =>
    mapRes (fun q => writeByteIn pass dst.tbl q.1 q.2) ((dst.places n).zip bs) s

/-- MOVB: as if all bytes were read before the first is written (R325; log 29). -/
def execMovb (s : State) : Out :=
  if descriptorBit13 s then .refused .byteDescriptorBit13
  else
    let n := moveCount s
    (inOrder (moveAll (byteSource s) (byteDest s) n) s).andThen fun _ s => .next (s.afterByteMove n).advance

/-- One byte of MOVBF: it is written before the next is read (R326). -/
def moveByte (src dst : Table) (pass : Pass) (q : BytePlace × BytePlace) (s : State) : Res Word :=
  (readByte src q.1 s).bind fun b s => writeByteIn pass dst q.2 b s

/-- MOVBF: ascending, byte by byte (R326). -/
def execMovbf (s : State) : Out :=
  if descriptorBit13 s then .refused .byteDescriptorBit13
  else
    let src := byteSource s
    let dst := byteDest s
    let n := moveCount s
    (inOrder (fun pass => mapRes (moveByte src.tbl dst.tbl pass) ((src.places n).zip (dst.places n))) s).andThen fun _ s =>
      .next (s.afterByteMove n).advance

/-! ### MOVEW -/

/-- Where one side of a MOVEW transfer lies. -/
inductive MoveSpace where
  | virt (tbl : Table)
  | phys
  deriving DecidableEq, Repr

/-- The source of a transfer code (R327). -/
def moveSource (kind : MovewKind) : MoveSpace :=
  match kind with
  | .ptPt | .ptApt | .ptPhys => .virt .pt
  | .aptPt | .aptApt | .aptPhys => .virt .apt
  | .physPt | .physApt | .physPhys => .phys

/-- The destination of a transfer code (R327). -/
def moveDest (kind : MovewKind) : MoveSpace :=
  match kind with
  | .ptPt | .aptPt | .physPt => .virt .pt
  | .ptApt | .aptApt | .physApt => .virt .apt
  | .ptPhys | .aptPhys | .physPhys => .phys

/-- The transfers that name physical memory are privileged (R327; log 30). -/
def movePrivileged (kind : MovewKind) : Bool := moveSource kind == .phys || moveDest kind == .phys

/-- Checking one access of a transfer: a virtual address, or a bank and offset. -/
def resolveMove (kind : AccessKind) (space : MoveSpace) (hi lo : Word) (s : State) : Res Target :=
  match space with
  | .virt tbl => resolve kind tbl lo s
  | .phys => resolvePhys kind (physAddr (bankReg hi) lo) s

/-- An address after one word: the offset counts up; the bank only for physical memory, when the offset wraps. -/
def stepAddress (space : MoveSpace) (hi lo : Reg) (s : State) : State :=
  let v := s.reg lo + 1
  let t := s.setReg lo v
  if space = .phys ∧ v = 0 then t.setReg hi (s.reg hi + 1) else t

/-- One word of MOVEW: the source is read, then the destination is written, then the registers count (R328). -/
def moveOneWord (kind : MovewKind) (s : State) : Res Unit :=
  ((resolveMove .read (moveSource kind) (s.reg .a) (s.reg .d) s).bind load).bind fun v s =>
    (resolveMove .write (moveDest kind) (s.reg .x) (s.reg .t) s).bind fun w s =>
      let s := stepAddress (moveSource kind) .a .d (store w v s)
      let s := stepAddress (moveDest kind) .x .t s
      .ok () (s.setReg .l (s.reg .l - 1))

/-- Repeating a part of an instruction. -/
def repeatRes (f : State → Res Unit) : Nat → State → Res Unit
  | 0, s => .ok () s
  | n + 1, s => (f s).bind fun _ s => repeatRes f n s

/-- The words of MOVEW. Its poll for an interrupt stops it after `pollAfter` words (log 9); then the registers hold
the progress and P addresses it. A fault leaves the progress of the words before it (spec/60_exceptions.md R492). -/
def moveWords (kind : MovewKind) (s : State) : Out :=
  if 2048 < s.reg .l then .next s.advance
  else
    (repeatRes (moveOneWord kind) (min (s.reg .l).toNat s.pollAfter) s).andThen fun _ s =>
      .next (if s.reg .l = 0 then s.advance else s)

/-- MOVEW (R327, R328). -/
def execMovew (kind : MovewKind) (s : State) : Out :=
  if movePrivileged kind then privileged s (moveWords kind s) else moveWords kind s

/-- VERSN (R329). A is the whole parameter `VERSN_PRINT`, as the pseudocode has it; R42 says that it shows the ALD value
too, in bits that are lost, and that nothing ties them to `cfg.ald` is the model's choice (log 55). -/
def execVersn (s : State) : Out :=
  let k := (s.reg .a).extractLsb' 8 4
  .next (((s.setReg .a s.cfg.versnPrint).setReg .t s.cfg.versnMicroprogram).setReg .d
    ((s.cfg.installationNumber[k.toNat]'k.isLt).setWidth 16)).advance

end Sys2Proof.Machine
end

