-- ==== Sys2Proof/Machine/Decimal.lean ====
section
/-! DEFINITION. The decimal instructions (spec/47_decimal_stack.md R340 to R351). -/

namespace Sys2Proof.Machine

/-- The four bits of a BCD digit or sign. -/
abbrev Nibble := BitVec 4

/-- A decimal operand as its descriptor D1, D2 gives it (R340). -/
structure DecimalField where
  start : Word
  right : Bool
  ascii : BitVec 3
  round : Bool
  point : Nat
  length : Nat
  deriving DecidableEq, Repr

/-- The decimal operand of a descriptor (R340, D35). -/
def decimalField (d1 d2 : Word) : DecimalField :=
  { start := d1
    right := d2.getLsbD 15
    ascii := d2.extractLsb' 11 3
    round := d2.getLsbD 10
    point := (d2.extractLsb' 5 5).toNat
    length := (d2.extractLsb' 0 5).toNat }

/-- Bit 13 of D2: unsigned in BCD (R340). -/
def DecimalField.unsigned (f : DecimalField) : Bool := f.ascii.getLsbD 2

/-- The first operand: A and D (R343). -/
def firstField (s : State) : DecimalField := decimalField (s.reg .a) (s.reg .d)

/-- The second operand: X and T (R343). -/
def secondField (s : State) : DecimalField := decimalField (s.reg .x) (s.reg .t)

/-- The bytes `0 .. n-1` of an operand. -/
def DecimalField.places (f : DecimalField) (n : Nat) : List BytePlace := (List.range n).map (fieldByte f.start f.right)

/-- Bit 14 of a descriptor is set (R340: refuses; log 31). -/
def decimalBit14 (s : State) : Bool := (s.reg .d).getLsbD 14 || (s.reg .t).getLsbD 14

/-- The checks before a decimal instruction: bit 14, and a BCD field of odd length (R341: refuse; log 31). -/
def decimalGuard (oddLength : Bool) (s : State) (k : Out) : Out :=
  if decimalBit14 s then .refused .decimalDescriptorBit14
  else if oddLength then .refused .decimalOddLength
  else k

/-- Error return (R344). -/
def errorReturn (s : State) : State := s.advance

/-- Skip return (R344). -/
def skipReturn (s : State) : State := s.skip

/-! ### Numbers -/

/-- The digits of a number, most significant first, as many as asked for. -/
def decimalDigits : Nat → Nat → List Nat
  | 0, _ => []
  | n + 1, m => decimalDigits n (m / 10) ++ [m % 10]

/-- The number of a list of digits, most significant first. -/
def digitsValue (ds : List Nat) : Nat := ds.foldl (fun v x => 10 * v + x) 0

/-- A sign and a magnitude; `unsigned` for the sign code 1111 or an unsigned form. -/
structure DecimalNumber where
  neg : Bool
  unsigned : Bool
  mag : Nat
  deriving DecidableEq, Repr

/-- The signed value. -/
def DecimalNumber.val (x : DecimalNumber) : Int := if x.neg then -(x.mag : Int) else x.mag

/-- The positive zero of an empty operand (R346). -/
def DecimalNumber.zero : DecimalNumber := { neg := false, unsigned := false, mag := 0 }

/-! ### BCD -/

/-- The nibbles of a string of bytes, bits 7-4 first (R341). -/
def nibbles (bs : List Byte) : List Nibble := bs.flatMap fun b => [b.extractLsb' 4 4, b.extractLsb' 0 4]

/-- The bytes of a string of nibbles. -/
def packNibbles : List Nibble → List Byte
  | a :: b :: ns => (a ++ b) :: packNibbles ns
  | _ => []

/-- A nibble is legal in its place: a sign 1010 to 1111 in the last, a digit 0 to 9 elsewhere (R341). -/
def bcdLegal (last : Bool) (n : Nibble) : Bool := if last then decide (10 ≤ n) else decide (n < 10)

/-- For each nibble of a field whether it is legal. -/
def bcdChecks (ns : List Nibble) : List Bool :=
  ns.dropLast.map (bcdLegal false) ++ (ns.drop (ns.length - 1)).map (bcdLegal true)

/-- The sign codes for minus (R341). -/
def bcdMinus (n : Nibble) : Bool := n == 11 || n == 13

/-- The number in a BCD field, legal or not. -/
def bcdNumber (ns : List Nibble) : DecimalNumber :=
  match ns.getLast? with
  | none => DecimalNumber.zero
  | some sign =>
    { neg := bcdMinus sign, unsigned := sign == 15, mag := digitsValue (ns.dropLast.map BitVec.toNat) }

/-- The number in a BCD field, if all its codes are legal. -/
def decodeBcd (ns : List Nibble) : Option DecimalNumber :=
  if (bcdChecks ns).all (· == true) then some (bcdNumber ns) else none

/-- The sign code of a result (R341, R346). -/
def bcdSign (unsigned neg : Bool) : Nibble := if unsigned then 15 else if neg then 13 else 12

/-- The bytes of a BCD field of `n` nibbles: the low digits of a number, leading zeros, the sign; none when the field
is empty. -/
def encodeBcd (n : Nat) (sign : Nibble) (mag : Nat) : List Byte :=
  if n = 0 then []
  else packNibbles ((decimalDigits (n - 1) mag).map (BitVec.ofNat 4) ++ [sign])

/-! ### ASCII -/

/-- The sign forms (R340, R342). -/
inductive AsciiForm where
  | embeddedTrailing
  | separateTrailing
  | embeddedLeading
  | separateLeading
  | unsigned
  deriving DecidableEq, Repr

/-- The form of one of the five described codes. -/
def asciiFormOfCode (code : BitVec 3) : AsciiForm :=
  if code = 0 then .embeddedTrailing
  else if code = 1 then .separateTrailing
  else if code = 2 then .embeddedLeading
  else if code = 3 then .separateLeading
  else .unsigned

/-- The form of bits 13-11; codes 101, 110 and 111 are not described (log 33). -/
def asciiForm (code : BitVec 3) : AsciiForm :=
  asciiFormOfCode (if code ≤ 4 then code else Config.asciiForm code)

/-- The byte of a field of `n` bytes that holds the sign. -/
def signIndex (form : AsciiForm) (n : Nat) : Option Nat :=
  match form with
  | .embeddedTrailing | .separateTrailing => some (n - 1)
  | .embeddedLeading | .separateLeading => some 0
  | .unsigned => none

/-- The sign has a byte of its own. -/
def separateSign (form : AsciiForm) : Bool := form == .separateTrailing || form == .separateLeading

/-- The number of digits a field of `n` bytes holds. -/
def asciiCapacity (form : AsciiForm) (n : Nat) : Nat := if separateSign form then n - 1 else n

/-- An ASCII digit (R342). -/
def asciiDigit (x : Nat) : Byte := BitVec.ofNat 8 (0o60 + x)

/-- The digit of an ASCII digit code. -/
def readAsciiDigit (b : Byte) : Option Nat :=
  if 0o60#8 ≤ b ∧ b ≤ 0o71#8 then some (b.toNat - 0o60) else none

/-- The embedded codes of Table 5 (R342). -/
def embeddedCode (neg : Bool) (x : Nat) : Byte :=
  if x = 0 then (if neg then 0o175 else 0o173)
  else BitVec.ofNat 8 ((if neg then 0o111 else 0o100) + x)

/-- Sign and digit of an embedded code. -/
def readEmbedded (b : Byte) : Option (Bool × Nat) :=
  if b = 0o173#8 then some (false, 0)
  else if b = 0o175#8 then some (true, 0)
  else if 0o101#8 ≤ b ∧ b ≤ 0o111#8 then some (false, b.toNat - 0o100)
  else if 0o112#8 ≤ b ∧ b ≤ 0o122#8 then some (true, b.toNat - 0o111)
  else none

/-- The separate sign codes (R342; log 33). -/
def separateCode (neg : Bool) : Byte := if neg then 0o55 else 0o53

/-- The sign of a separate sign code. -/
def readSeparate (b : Byte) : Option Bool :=
  if b = 0o53#8 then some false else if b = 0o55#8 then some true else none

/-- What one byte of an ASCII operand holds: a minus sign or not, and the digits in it (one or none); `none` for an
illegal code. -/
def readAsciiByte (form : AsciiForm) (isSign : Bool) (b : Byte) : Option (Bool × List Nat) :=
  if isSign then
    if separateSign form then (readSeparate b).map fun neg => (neg, [])
    else (readEmbedded b).map fun r => (r.1, [r.2])
  else (readAsciiDigit b).map fun x => (false, [x])

/-- The readings of the bytes of an ASCII operand, from byte `i` of `n`. -/
def readAsciiBytes (form : AsciiForm) (n : Nat) : Nat → List Byte → List (Option (Bool × List Nat))
  | _, [] => []
  | i, b :: bs => readAsciiByte form (signIndex form n == some i) b :: readAsciiBytes form n (i + 1) bs

/-- The number of the readings. -/
def asciiNumber (form : AsciiForm) (rs : List (Option (Bool × List Nat))) : DecimalNumber :=
  let parts := rs.filterMap id
  { neg := parts.any (·.1), unsigned := form == .unsigned, mag := digitsValue (parts.flatMap (·.2)) }

/-- The bytes of an ASCII field of `n` bytes: the low digits of a number with its sign in the form; the unsigned
form has none, and a minus is dropped (log 33). -/
def encodeAscii (form : AsciiForm) (n : Nat) (neg : Bool) (mag : Nat) : List Byte :=
  let ds := decimalDigits (asciiCapacity form n) mag
  if n = 0 then []
  else
    match form with
    | .unsigned => ds.map asciiDigit
    | .separateTrailing => ds.map asciiDigit ++ [separateCode neg]
    | .separateLeading => separateCode neg :: ds.map asciiDigit
    | .embeddedTrailing => ds.dropLast.map asciiDigit ++ (ds.drop (n - 1)).map (embeddedCode neg)
    | .embeddedLeading => (ds.take 1).map (embeddedCode neg) ++ (ds.drop 1).map asciiDigit

/-! ### Access to operands -/

/-- Reading the first `n` bytes of an operand (R343, D30). -/
def readDecimal (f : DecimalField) (n : Nat) (s : State) : Res (List Byte) :=
  mapRes (readByte s.dataTable) (f.places n) s

/-- Writing bytes to an operand, all checked before the first is written (D20). -/
def writeDecimal (f : DecimalField) (bs : List Byte) (s : State) : Res (List Word) :=
  inOrder (fun pass => mapRes (fun q => writeByteIn pass s.dataTable q.1 q.2) ((f.places bs.length).zip bs)) s

/-- A BCD operand (R341): its number, or none when a code is illegal. -/
def readBcd (f : DecimalField) (s : State) : Res (Option DecimalNumber) :=
  (readDecimal f (f.length / 2) s).bind fun bs s => .ok (decodeBcd (nibbles bs)) s

/-- Any value for each byte of a field (log 32). -/
def anyBytes (n : Nat) (s : State) : Res (List Byte) :=
  (mapRes (fun _ s => freshWord s) (List.range n) s).bind fun ws s => .ok (ws.map oddByte) s

/-- One of the two BCD operands has an odd length. -/
def oddBcd (s : State) : Bool := (firstField s).length % 2 == 1 || (secondField s).length % 2 == 1

/-! ### The instructions -/

/-- The error of ADDD and SUBD: error return, any value in the result field (R345, R346; log 32). That the whole field is
written, with the checks of a write, so that a write fault comes in place of the error return and WIP is set, is the model's
choice (log 32). -/
def decimalError (f : DecimalField) (s : State) : Out :=
  (anyBytes (f.length / 2) s).andThen fun bs s => (writeDecimal f bs s).andThen fun _ s => .next (errorReturn s)

/-- ADDD, SUBD (R346, R347). `zeroNeg` is the sign a zero result has where it is signed. -/
def decimalSum (r : Int) (zeroNeg : Bool) (f : DecimalField) (s : State) : Out :=
  if 10 ^ (f.length - 1) ≤ r.natAbs then decimalError f s
  else
    let sign := bcdSign f.unsigned (if r = 0 then zeroNeg else decide (r < 0))
    (writeDecimal f (encodeBcd f.length sign r.natAbs) s).andThen fun _ s => .next (skipReturn s)

/-- ADDD (R346). -/
def execAddd (s : State) : Out :=
  decimalGuard (oddBcd s) s
    ((readBcd (firstField s) s).andThen fun x s => (readBcd (secondField s) s).andThen fun y s =>
      match x, y with
      | some x, some y => decimalSum (x.val + y.val) false (firstField s) s
      | _, _ => decimalError (firstField s) s)

/-- SUBD (R347): the sign of a zero difference is any value. -/
def execSubd (s : State) : Out :=
  decimalGuard (oddBcd s) s
    ((readBcd (firstField s) s).andThen fun x s => (readBcd (secondField s) s).andThen fun y s =>
      match x, y with
      | some x, some y =>
        (freshWord s).andThen fun w s => decimalSum (x.val - y.val) (w.getLsbD 0) (firstField s) s
      | _, _ => decimalError (firstField s) s)

/-- The result of COMD (R348). -/
def compareWord (x y : Int) : Word := if x = y then 0 else if y < x then 1 else 0xFFFF

/-- COMD (R348); after an error A is any value (log 32). -/
def execComd (s : State) : Out :=
  decimalGuard (oddBcd s) s
    ((readBcd (firstField s) s).andThen fun x s => (readBcd (secondField s) s).andThen fun y s =>
      match x, y with
      | some x, some y => .next (skipReturn (s.setReg .a (compareWord x.val y.val)))
      | _, _ => (freshWord s).andThen fun w s => .next (errorReturn (s.setReg .a w)))

/-- D with its bits 4-0 replaced (R349). -/
def State.setErrorCode (s : State) (code : BitVec 5) : State :=
  s.setReg .d ((s.reg .d).extractLsb' 5 11 ++ code)

/-- Error code 2: A and bit 15 of D point to the byte of the first operand with the illegal code (R349). -/
def illegalCode (f : DecimalField) (i : Nat) (s : State) : State :=
  let p := fieldByte f.start f.right i
  errorReturn (((s.setReg .a p.addr).setReg .d (putBit (s.reg .d) 15 p.odd)).setErrorCode 2)

/-- The end of PACK and UPACK: the bytes written, then error code 3 on overflow, else any value in D bits 4-0 (R349;
log 32). -/
def finishConversion (f : DecimalField) (bs : List Byte) (overflow : Bool) (s : State) : Out :=
  (writeDecimal f bs s).andThen fun _ s =>
    if overflow then .next (errorReturn (s.setErrorCode 3))
    else (freshWord s).andThen fun w s => .next (skipReturn (s.setErrorCode (w.extractLsb' 0 5)))

/-- The second operand of PACK, in BCD (R349). With bit 13 of T clear a number without a sign is written as plus, 1100
(log 33). -/
def finishPack (x : DecimalNumber) (s : State) : Out :=
  let g := secondField s
  finishConversion g (encodeBcd g.length (bcdSign g.unsigned x.neg) x.mag) (decide (10 ^ (g.length - 1) ≤ x.mag)) s

/-- PACK (R349). Of several illegal codes the one in the lowest byte is reported, sign and digits alike (log 33). The
second operand is written only: that it is not read before (R343) is the model's choice (DESIGN CHOICE, log 57). -/
def execPack (s : State) : Out :=
  let f := firstField s
  decimalGuard ((secondField s).length % 2 == 1) s
    ((readDecimal f f.length s).andThen fun bs s =>
      let rs := readAsciiBytes (asciiForm f.ascii) f.length 0 bs
      match rs.findIdx? (· == none) with
      | some i => .next (illegalCode f i s)
      | none => finishPack (asciiNumber (asciiForm f.ascii) rs) s)

/-- The second operand of UPACK, in ASCII (R350). In the unsigned form a minus is dropped without an error (log 33). -/
def finishUpack (x : DecimalNumber) (s : State) : Out :=
  let g := secondField s
  let form := asciiForm g.ascii
  finishConversion g (encodeAscii form g.length x.neg x.mag) (decide (10 ^ asciiCapacity form g.length ≤ x.mag)) s

/-- UPACK (R350). Of several illegal codes the first nibble of the field is reported, sign and digits alike (log 33).
The second operand is written only: that it is not read before (R343) is the model's choice (DESIGN CHOICE, log 57). -/
def execUpack (s : State) : Out :=
  let f := firstField s
  decimalGuard (f.length % 2 == 1) s
    ((readDecimal f (f.length / 2) s).andThen fun bs s =>
      match (bcdChecks (nibbles bs)).findIdx? (· == false) with
      | some i => .next (illegalCode f (i / 2) s)
      | none => finishUpack (bcdNumber (nibbles bs)) s)

/-- The magnitude of SHDE: shifted right by `op2 - op1` places, rounded by bit 10 of the second D2, or left (R351). -/
def decimalShift (op1 op2 : Nat) (round : Bool) (m : Nat) : Nat :=
  if op1 < op2 then
    let k := op2 - op1
    m / 10 ^ k + (if round && decide (5 ≤ m / 10 ^ (k - 1) % 10) then 1 else 0)
  else m * 10 ^ (op1 - op2)

/-- The sign code of SHDE: an unsigned operand becomes plus, or stays unsigned with bit 13 of the second D2 (R351;
log 34). -/
def shiftSign (x : DecimalNumber) (unsigned : Bool) : Nibble := bcdSign (x.unsigned && unsigned) x.neg

/-- SHDE (R351). The second operand is written only: that it is not read before (R343) is the model's choice (DESIGN CHOICE,
log 57). -/
def execShde (s : State) : Out :=
  decimalGuard (oddBcd s) s
    ((readBcd (firstField s) s).andThen fun x s =>
      match x with
      | none => .next (errorReturn s)
      | some x =>
        let g := secondField s
        let q := decimalShift (firstField s).point g.point g.round x.mag
        if 10 ^ (g.length - 1) ≤ q then .next (errorReturn s)
        else
          (writeDecimal g (encodeBcd g.length (shiftSign x g.unsigned) q) s).andThen fun _ s => .next (skipReturn s))

end Sys2Proof.Machine
end

