-- ==== Sys2Proof/WellFormed.lean ====
section
/-! DEFINITION. Which terms of `Instr` stand for an instruction word. The field types bound every field; what is left
is the compound mnemonics of spec/40_register.md R179 to R184, each of which is the one term for its words (log 41):
a `radd` or `copy` term for such a word is ill-formed. -/

namespace Sys2Proof

/-- `COPY 0` is RCLR (R180) and `COPY SL DP` is EXIT (R181). -/
def copyWellFormed (sr dr : Option Reg) : Bool :=
  sr != none && !(sr == some .l && dr == some .p)

/-- `RADD CLD` is COPY, `RADD CM1` of no source is RDCR, `RADD AD1` of no source is RINC, `RADD AD1 CM1` is RSUB
(R179, R182, R183, R184). -/
def raddWellFormed (adc ad1 cm1 cld : Bool) (sr : Option Reg) : Bool :=
  !(!adc && !ad1 && !cm1 && cld)
    && !(!adc && !ad1 && cm1 && !cld && sr == none)
    && !(!adc && ad1 && !cm1 && !cld && sr == none)
    && !(!adc && ad1 && cm1 && !cld)

/-- The term is the one `decodeWord` gives for some word. -/
def Instr.wellFormed (i : Instr) : Bool :=
  match i with
  | .copy sr dr => copyWellFormed sr dr
  | .radd adc ad1 cm1 cld sr _ => raddWellFormed adc ad1 cm1 cld sr
  | _ => true

end Sys2Proof
end

