-- ==== Sys2Proof/Decode.lean ====
section
/-! DEFINITION. The decoder, total on every word and on every list of bytes, and after it the encoder, both written
from the tables of spec/30_encoding.md (R131 to R142, R147). -/

namespace Sys2Proof

/-- Why bytes are no instruction. -/
inductive DecodeError where
  /-- The word matches no row of the opcode table (R160). -/
  | undefinedWord (w : Word)
  /-- Fewer than the two bytes of a word. -/
  | tooShort
  deriving DecidableEq, Repr

/-! ## Fields -/

/-- The register of a three-bit register code; code 0 is none (spec/10_state.md R22). -/
def regOfCode (c : BitVec 3) : Option Reg :=
  match c.toNat with
  | 1 => some .d
  | 2 => some .p
  | 3 => some .b
  | 4 => some .l
  | 5 => some .a
  | 6 => some .t
  | 7 => some .x
  | _ => none

/-- Register code 0 is STS in the bit and inter-level instructions (R22). -/
def stsOrRegOfCode (c : BitVec 3) : StsOrReg :=
  match regOfCode c with
  | some r => .reg r
  | none => .sts

/-- Bits 5-3, the source register. -/
def srField (w : Word) : Option Reg := regOfCode (w.extractLsb' 3 3)

/-- Bits 2-0, the destination register. -/
def drField (w : Word) : Option Reg := regOfCode (w.extractLsb' 0 3)

/-- Bits 2-0, the register of a bit or inter-level instruction. -/
def drOrSts (w : Word) : StsOrReg := stsOrRegOfCode (w.extractLsb' 0 3)

/-- Bits 7-0. -/
def byteField (w : Word) : BitVec 8 := w.extractLsb' 0 8

/-- Bits 6-3, a level or a bit number. -/
def level4 (w : Word) : BitVec 4 := w.extractLsb' 3 4

/-- Bits 5-3, the displacement of formats TX and SCB. -/
def deltaField (w : Word) : BitVec 3 := w.extractLsb' 3 3

/-- Bits 10-0 of format MEM (R131). -/
def memField (w : Word) : MemOperand :=
  { x := w.getLsbD 10, i := w.getLsbD 9, b := w.getLsbD 8, disp := byteField w }

/-- Bits 10-8 of SKP (spec/44_jump_mon_skip.md R280). -/
def skpCond (w : Word) : SkpCond :=
  match (w.extractLsb' 8 3).toNat with
  | 0 => .eql
  | 1 => .geq
  | 2 => .gre
  | 3 => .mgre
  | 4 => .ueq
  | 5 => .lss
  | 6 => .lst
  | _ => .mlst

/-- Bits 10-9 of a shift (spec/43_shift.md R250). -/
def shiftType (w : Word) : ShiftType :=
  match (w.extractLsb' 9 2).toNat with
  | 0 => .arith
  | 1 => .rot
  | 2 => .zin
  | _ => .lin

/-! ## Decoding, by bits 15-11 (R147) -/

/-- 0o1401xx, format FIX (R141). -/
def decodeDecimalStack (w : Word) : Except DecodeError Instr :=
  match (w.extractLsb' 0 6).toNat with
  | 0o20 => .ok .addd
  | 0o21 => .ok .subd
  | 0o22 => .ok .comd
  | 0o23 => .ok .tset
  | 0o24 => .ok .pack
  | 0o25 => .ok .upack
  | 0o26 => .ok .shde
  | 0o27 => .ok .rdus
  | 0o30 => .ok .bfill
  | 0o31 => .ok .movb
  | 0o32 => .ok .movbf
  | 0o33 => .ok .versn
  | 0o34 => .ok .init
  | 0o35 => .ok .entr
  | 0o36 => .ok .leave
  | 0o37 => .ok .eleav
  | _ => .error (.undefinedWord w)

/-- 0o1403xx (R141). -/
def decodePageTable (w : Word) : Except DecodeError Instr :=
  match (w.extractLsb' 0 6).toNat with
  | 0 => .ok .setpt
  | 1 => .ok .clept
  | 2 => .ok .clnreent
  | 3 => .ok .chreentpages
  | 4 => .ok .clepu
  | _ => .error (.undefinedWord w)

/-- 0o1405xx (R141). -/
def decodeSintran (w : Word) : Except DecodeError Instr :=
  match (w.extractLsb' 0 6).toNat with
  | 0o0 => .ok .wglob
  | 0o1 => .ok .rglob
  | 0o2 => .ok .inspl
  | 0o3 => .ok .rempl
  | 0o4 => .ok .cnrek
  | 0o5 => .ok .clpt
  | 0o6 => .ok .enpt
  | 0o7 => .ok .rept
  | 0o10 => .ok .lbit
  | 0o11 => .ok .lbitp
  | 0o12 => .ok .sbit
  | 0o13 => .ok .sbitp
  | 0o14 => .ok .lbytp
  | 0o15 => .ok .sbytp
  | 0o16 => .ok .tsetp
  | 0o17 => .ok .rdusp
  | _ => .error (.undefinedWord w)

/-- 0o1407xx, format SCB (spec/49_sintran3.md R434). -/
def decodeTableAccess (w : Word) : Except DecodeError Instr :=
  match (w.extractLsb' 0 3).toNat with
  | 0 => .ok (.lasb (deltaField w))
  | 1 => .ok (.sasb (deltaField w))
  | 2 => .ok (.lacb (deltaField w))
  | 3 => .ok (.sacb (deltaField w))
  | 4 => .ok (.lxsb (deltaField w))
  | 5 => .ok (.lxcb (deltaField w))
  | 6 => .ok (.szsb (deltaField w))
  | _ => .ok (.szcb (deltaField w))

/-- 0o1433xx, format TX (spec/48_privileged.md R399). -/
def decodePhysical (w : Word) : Except DecodeError Instr :=
  match (w.extractLsb' 0 3).toNat with
  | 0 => .ok (.ldatx (deltaField w))
  | 1 => .ok (.ldxtx (deltaField w))
  | 2 => .ok (.lddtx (deltaField w))
  | 3 => .ok (.ldbtx (deltaField w))
  | 4 => .ok (.statx (deltaField w))
  | 5 => .ok (.stztx (deltaField w))
  | 6 => .ok (.stdtx (deltaField w))
  | _ => .error (.undefinedWord w)

/-- 0o1431xx, format MVW (spec/46_byte_block_version.md R327). -/
def decodeMovew (w : Word) : Except DecodeError Instr :=
  match (w.extractLsb' 0 6).toNat with
  | 0o0 => .ok (.movew .ptPt)
  | 0o1 => .ok (.movew .ptApt)
  | 0o2 => .ok (.movew .ptPhys)
  | 0o3 => .ok (.movew .aptPt)
  | 0o4 => .ok (.movew .aptApt)
  | 0o5 => .ok (.movew .aptPhys)
  | 0o6 => .ok (.movew .physPt)
  | 0o7 => .ok (.movew .physApt)
  | 0o10 => .ok (.movew .physPhys)
  | _ => .error (.undefinedWord w)

/-- 0o1436xx, format IDT (spec/48_privileged.md R385). -/
def decodeIdent (w : Word) : Except DecodeError Instr :=
  match (w.extractLsb' 0 6).toNat with
  | 0o04 => .ok .identPl10
  | 0o11 => .ok .identPl11
  | 0o22 => .ok .identPl12
  | 0o43 => .ok .identPl13
  | _ => .error (.undefinedWord w)

/-- A word all of whose bits 5-0 must be zero. -/
def onlyLow6Zero (w : Word) (i : Instr) : Except DecodeError Instr :=
  if w.extractLsb' 0 6 = 0 then .ok i else .error (.undefinedWord w)

/-- A word whose bits 2-0 must be zero (R162). -/
def onlyLow3Zero (w : Word) (i : Instr) : Except DecodeError Instr :=
  if w.extractLsb' 0 3 = 0 then .ok i else .error (.undefinedWord w)

/-- The extended space, bits 15-11 = 11000, bits 7-6 not 00, by bits 10-6 (R141). -/
def decodeExtended (w : Word) : Except DecodeError Instr :=
  match (w.extractLsb' 6 5).toNat with
  | 0o01 => decodeDecimalStack w
  | 0o03 => decodePageTable w
  | 0o05 => decodeSintran w
  | 0o06 => onlyLow3Zero w (.exr (srField w))
  | 0o07 => decodeTableAccess w
  | 0o12 => .ok (.rmpy (srField w) (drField w))
  | 0o16 => onlyLow3Zero w (.rdiv (srField w))
  | 0o22 => onlyLow6Zero w .lbyt
  | 0o26 => onlyLow6Zero w .sbyt
  | 0o31 => decodeMovew w
  | 0o32 => onlyLow6Zero w .mix3
  | 0o33 => decodePhysical w
  | 0o35 => onlyLow6Zero w .lwcs
  | 0o36 => decodeIdent w
  | _ => .error (.undefinedWord w)

/-- SKP where bits 7-6 are 00 (R135), else the extended space. -/
def decodeSkpOrExtended (w : Word) : Except DecodeError Instr :=
  if w.extractLsb' 6 2 = 0 then .ok (.skp (skpCond w) (srField w) (drField w)) else decodeExtended w

/-- `RADD` and its compound mnemonics by bits 9-6 and sr (R133; spec/40_register.md R178 to R184; log 41). -/
def decodeRadd (w : Word) : Instr :=
  match w.getLsbD 9, w.getLsbD 8, w.getLsbD 7, w.getLsbD 6, srField w with
  | false, false, false, true, none => .rclr (drField w)
  | false, false, false, true, some .l => if drField w = some .p then .exit else .copy (some .l) (drField w)
  | false, false, false, true, sr => .copy sr (drField w)
  | false, false, true, false, none => .rdcr (drField w)
  | false, true, false, false, none => .rinc (drField w)
  | false, true, true, false, sr => .rsub sr (drField w)
  | adc, ad1, cm1, cld, sr => .radd adc ad1 cm1 cld sr (drField w)

/-- Format ROP, by bits 10-8 (R133). -/
def decodeRop (w : Word) : Instr :=
  match (w.extractLsb' 8 3).toNat with
  | 0 => .swap (w.getLsbD 7) (w.getLsbD 6) (srField w) (drField w)
  | 1 => .rand (w.getLsbD 7) (w.getLsbD 6) (srField w) (drField w)
  | 2 => .rexo (w.getLsbD 7) (w.getLsbD 6) (srField w) (drField w)
  | 3 => .rora (w.getLsbD 7) (w.getLsbD 6) (srField w) (drField w)
  | _ => decodeRadd w

/-- Format CJP, by bits 10-8 (R132). -/
def decodeConditionalJump (w : Word) : Instr :=
  match (w.extractLsb' 8 3).toNat with
  | 0 => .jap (byteField w)
  | 1 => .jan (byteField w)
  | 2 => .jaz (byteField w)
  | 3 => .jaf (byteField w)
  | 4 => .jpc (byteField w)
  | 5 => .jnc (byteField w)
  | 6 => .jxz (byteField w)
  | _ => .jxn (byteField w)

/-- Format IRG, 0o150000 to 0o150377, bits 5-4 zero (spec/48_privileged.md R377). -/
def decodeInternalRegister (w : Word) : Except DecodeError Instr :=
  if w.extractLsb' 4 2 = 0 then
    match (w.extractLsb' 6 2).toNat with
    | 0 => .ok (.tra (w.extractLsb' 0 4))
    | 1 => .ok (.trr (w.extractLsb' 0 4))
    | 2 => .ok (.mcl (w.extractLsb' 0 4))
    | _ => .ok (.mst (w.extractLsb' 0 4))
  else .error (.undefinedWord w)

/-- 0o150400 to 0o150777, format FIX (R142). -/
def decodeControl (w : Word) : Except DecodeError Instr :=
  match (byteField w).toNat with
  | 0o00 => .ok .opcom
  | 0o01 => .ok .iof
  | 0o02 => .ok .ion
  | 0o04 => .ok .pof
  | 0o05 => .ok .piof
  | 0o06 => .ok .sex
  | 0o07 => .ok .rex
  | 0o10 => .ok .pon
  | 0o12 => .ok .pion
  | 0o15 => .ok .ioxt
  | 0o16 => .ok .exam
  | 0o17 => .ok .depo
  | _ => .error (.undefinedWord w)

/-- Format RBK, 0o152400 to 0o152777 (spec/48_privileged.md R374). -/
def decodeRegisterBlock (w : Word) : Except DecodeError Instr :=
  match w.getLsbD 7, (w.extractLsb' 0 3).toNat with
  | false, 2 => .ok (.srb (level4 w))
  | true, 0 => .ok (.lrb (level4 w))
  | _, _ => .error (.undefinedWord w)

/-- The system group, bits 15-11 = 11010, by bits 10-8 (R142). -/
def decodeSystem (w : Word) : Except DecodeError Instr :=
  match (w.extractLsb' 8 3).toNat with
  | 0 => decodeInternalRegister w
  | 1 => decodeControl w
  | 2 => .ok (.wait (byteField w))
  | 3 => .ok (.nlz (byteField w))
  | 4 => .ok (.dnz (byteField w))
  | 5 => decodeRegisterBlock w
  | 6 => .ok (.mon (byteField w))
  | _ => if w.getLsbD 7 then .ok (.irr (level4 w) (drOrSts w)) else .ok (.irw (level4 w) (drOrSts w))

/-- Format SHF, bit 6 zero (R134). -/
def decodeShift (w : Word) : Except DecodeError Instr :=
  if w.getLsbD 6 then .error (.undefinedWord w)
  else
    match (w.extractLsb' 7 2).toNat with
    | 0 => .ok (.sht (shiftType w) (w.extractLsb' 0 6))
    | 1 => .ok (.shd (shiftType w) (w.extractLsb' 0 6))
    | 2 => .ok (.sha (shiftType w) (w.extractLsb' 0 6))
    | _ => .ok (.sad (shiftType w) (w.extractLsb' 0 6))

/-- The argument instructions, by bits 10-8 (spec/45_argument_bit.md R290). -/
def decodeArgument (w : Word) : Instr :=
  match (w.extractLsb' 8 3).toNat with
  | 0 => .sab (byteField w)
  | 1 => .saa (byteField w)
  | 2 => .sat (byteField w)
  | 3 => .sax (byteField w)
  | 4 => .aab (byteField w)
  | 5 => .aaa (byteField w)
  | 6 => .aat (byteField w)
  | _ => .aax (byteField w)

/-- Format BOP, by bits 10-7 (spec/45_argument_bit.md R300). -/
def decodeBit (w : Word) : Instr :=
  match (w.extractLsb' 7 4).toNat with
  | 0 => .bsetZro (level4 w) (drOrSts w)
  | 1 => .bsetOne (level4 w) (drOrSts w)
  | 2 => .bsetBcm (level4 w) (drOrSts w)
  | 3 => .bsetBac (level4 w) (drOrSts w)
  | 4 => .bskpZro (level4 w) (drOrSts w)
  | 5 => .bskpOne (level4 w) (drOrSts w)
  | 6 => .bskpBcm (level4 w) (drOrSts w)
  | 7 => .bskpBac (level4 w) (drOrSts w)
  | 8 => .bstc (level4 w) (drOrSts w)
  | 9 => .bsta (level4 w) (drOrSts w)
  | 10 => .bldc (level4 w) (drOrSts w)
  | 11 => .blda (level4 w) (drOrSts w)
  | 12 => .banc (level4 w) (drOrSts w)
  | 13 => .band (level4 w) (drOrSts w)
  | 14 => .borc (level4 w) (drOrSts w)
  | _ => .bora (level4 w) (drOrSts w)

/-- The instruction of a word, by bits 15-11 (R147, R148). -/
def decodeWord (w : Word) : Except DecodeError Instr :=
  match (w.extractLsb' 11 5).toNat with
  | 0o00 => .ok (.stz (memField w))
  | 0o01 => .ok (.sta (memField w))
  | 0o02 => .ok (.stt (memField w))
  | 0o03 => .ok (.stx (memField w))
  | 0o04 => .ok (.std (memField w))
  | 0o05 => .ok (.ldd (memField w))
  | 0o06 => .ok (.stf (memField w))
  | 0o07 => .ok (.ldf (memField w))
  | 0o10 => .ok (.min (memField w))
  | 0o11 => .ok (.lda (memField w))
  | 0o12 => .ok (.ldt (memField w))
  | 0o13 => .ok (.ldx (memField w))
  | 0o14 => .ok (.add (memField w))
  | 0o15 => .ok (.sub (memField w))
  | 0o16 => .ok (.and (memField w))
  | 0o17 => .ok (.ora (memField w))
  | 0o20 => .ok (.fad (memField w))
  | 0o21 => .ok (.fsb (memField w))
  | 0o22 => .ok (.fmu (memField w))
  | 0o23 => .ok (.fdv (memField w))
  | 0o24 => .ok (.mpy (memField w))
  | 0o25 => .ok (.jmp (memField w))
  | 0o26 => .ok (decodeConditionalJump w)
  | 0o27 => .ok (.jpl (memField w))
  | 0o30 => decodeSkpOrExtended w
  | 0o31 => .ok (decodeRop w)
  | 0o32 => decodeSystem w
  | 0o33 => decodeShift w
  | 0o35 => .ok (.iox (w.extractLsb' 0 11))
  | 0o36 => .ok (decodeArgument w)
  | 0o37 => .ok (decodeBit w)
  | _ => .error (.undefinedWord w)

/-- The word in two bytes, the most significant half first (spec/20_memory.md R82). -/
def wordOfBytes (high low : Byte) : Word := high ++ low

/-- The most significant half of a word, the even byte (R82). -/
def highByte (w : Word) : Byte := w.extractLsb' 8 8

/-- The least significant half of a word, the odd byte (R82). -/
def lowByte (w : Word) : Byte := w.extractLsb' 0 8

/-- The first instruction of a list of bytes, and the bytes after it (R130: every instruction is one word). -/
def decodeBytes (bytes : List Byte) : Except DecodeError (Instr × List Byte) :=
  match bytes with
  | high :: low :: rest =>
    match decodeWord (wordOfBytes high low) with
    | .ok i => .ok (i, rest)
    | .error e => .error e
  | _ => .error .tooShort

/-- The instruction the decoder reads from bits numbered as spec/opcode_table.json numbers them. -/
def decodeTableWord (_nbits w : Nat) : Option Instr :=
  let word : Word := BitVec.ofNat 16 w
  match decodeBytes [highByte word, lowByte word] with
  | .ok (i, _) => some i
  | .error _ => none

/-! ## Encoding -/

/-- Register codes (spec/10_state.md R22). -/
def codeOfReg (r : Option Reg) : BitVec 3 :=
  match r with
  | none => 0
  | some .d => 1
  | some .p => 2
  | some .b => 3
  | some .l => 4
  | some .a => 5
  | some .t => 6
  | some .x => 7

def codeOfStsOrReg (r : StsOrReg) : BitVec 3 :=
  match r with
  | .sts => 0
  | .reg r => codeOfReg (some r)

def codeOfShiftType (t : ShiftType) : BitVec 2 :=
  match t with
  | .arith => 0
  | .rot => 1
  | .zin => 2
  | .lin => 3

def codeOfCond (c : SkpCond) : BitVec 3 :=
  match c with
  | .eql => 0
  | .geq => 1
  | .gre => 2
  | .mgre => 3
  | .ueq => 4
  | .lss => 5
  | .lst => 6
  | .mlst => 7

def codeOfMovew (k : MovewKind) : BitVec 6 :=
  match k with
  | .ptPt => 0o0
  | .ptApt => 0o1
  | .ptPhys => 0o2
  | .aptPt => 0o3
  | .aptApt => 0o4
  | .aptPhys => 0o5
  | .physPt => 0o6
  | .physApt => 0o7
  | .physPhys => 0o10

/-- A field of a word, its lowest bit at `lo`. -/
def atBit {n : Nat} (f : BitVec n) (lo : Nat) : Word := f.setWidth 16 <<< lo

/-- A one-bit field. -/
def flagBit (b : Bool) (lo : Nat) : Word := atBit (BitVec.ofBool b) lo

/-- Format MEM (R131). -/
def encodeMem (base : Word) (m : MemOperand) : Word :=
  base ||| flagBit m.x 10 ||| flagBit m.i 9 ||| flagBit m.b 8 ||| atBit m.disp 0

/-- An 8-bit field in bits 7-0 (R132, R136, R139). -/
def encodeByte (base : Word) (n : BitVec 8) : Word := base ||| atBit n 0

/-- `sr` and `dr` (R144). -/
def encodeRegs (base : Word) (sr dr : Option Reg) : Word :=
  base ||| atBit (codeOfReg sr) 3 ||| atBit (codeOfReg dr) 0

/-- Format ROP with CM1 and CLD (R133). -/
def encodeRop (base : Word) (cm1 cld : Bool) (sr dr : Option Reg) : Word :=
  encodeRegs base sr dr ||| flagBit cm1 7 ||| flagBit cld 6

/-- A 4-bit level or bit number in bits 6-3 and a register in bits 2-0 (R137, R142). -/
def encodeLevel (base : Word) (n : BitVec 4) (dr : StsOrReg) : Word :=
  base ||| atBit n 3 ||| atBit (codeOfStsOrReg dr) 0

/-- Format SHF (R134). -/
def encodeShift (base : Word) (t : ShiftType) (n : BitVec 6) : Word :=
  base ||| atBit (codeOfShiftType t) 9 ||| atBit n 0

/-- Δ in bits 5-3 (formats TX and SCB, R141). -/
def encodeDelta (base : Word) (d : BitVec 3) : Word := base ||| atBit d 3

/-- The word of an instruction (R131 to R142). -/
def encode (i : Instr) : Word :=
  match i with
  | .stz m => encodeMem 0o000000 m
  | .sta m => encodeMem 0o004000 m
  | .stt m => encodeMem 0o010000 m
  | .stx m => encodeMem 0o014000 m
  | .std m => encodeMem 0o020000 m
  | .ldd m => encodeMem 0o024000 m
  | .stf m => encodeMem 0o030000 m
  | .ldf m => encodeMem 0o034000 m
  | .min m => encodeMem 0o040000 m
  | .lda m => encodeMem 0o044000 m
  | .ldt m => encodeMem 0o050000 m
  | .ldx m => encodeMem 0o054000 m
  | .add m => encodeMem 0o060000 m
  | .sub m => encodeMem 0o064000 m
  | .and m => encodeMem 0o070000 m
  | .ora m => encodeMem 0o074000 m
  | .fad m => encodeMem 0o100000 m
  | .fsb m => encodeMem 0o104000 m
  | .fmu m => encodeMem 0o110000 m
  | .fdv m => encodeMem 0o114000 m
  | .mpy m => encodeMem 0o120000 m
  | .jmp m => encodeMem 0o124000 m
  | .jpl m => encodeMem 0o134000 m
  | .jap d => encodeByte 0o130000 d
  | .jan d => encodeByte 0o130400 d
  | .jaz d => encodeByte 0o131000 d
  | .jaf d => encodeByte 0o131400 d
  | .jpc d => encodeByte 0o132000 d
  | .jnc d => encodeByte 0o132400 d
  | .jxz d => encodeByte 0o133000 d
  | .jxn d => encodeByte 0o133400 d
  | .skp c sr dr => encodeRegs 0o140000 sr dr ||| atBit (codeOfCond c) 8
  | .addd => 0o140120
  | .subd => 0o140121
  | .comd => 0o140122
  | .tset => 0o140123
  | .pack => 0o140124
  | .upack => 0o140125
  | .shde => 0o140126
  | .rdus => 0o140127
  | .bfill => 0o140130
  | .movb => 0o140131
  | .movbf => 0o140132
  | .versn => 0o140133
  | .init => 0o140134
  | .entr => 0o140135
  | .leave => 0o140136
  | .eleav => 0o140137
  | .setpt => 0o140300
  | .clept => 0o140301
  | .clnreent => 0o140302
  | .chreentpages => 0o140303
  | .clepu => 0o140304
  | .wglob => 0o140500
  | .rglob => 0o140501
  | .inspl => 0o140502
  | .rempl => 0o140503
  | .cnrek => 0o140504
  | .clpt => 0o140505
  | .enpt => 0o140506
  | .rept => 0o140507
  | .lbit => 0o140510
  | .lbitp => 0o140511
  | .sbit => 0o140512
  | .sbitp => 0o140513
  | .lbytp => 0o140514
  | .sbytp => 0o140515
  | .tsetp => 0o140516
  | .rdusp => 0o140517
  | .exr sr => encodeRegs 0o140600 sr none
  | .lasb d => encodeDelta 0o140700 d
  | .sasb d => encodeDelta 0o140701 d
  | .lacb d => encodeDelta 0o140702 d
  | .sacb d => encodeDelta 0o140703 d
  | .lxsb d => encodeDelta 0o140704 d
  | .lxcb d => encodeDelta 0o140705 d
  | .szsb d => encodeDelta 0o140706 d
  | .szcb d => encodeDelta 0o140707 d
  | .rmpy sr dr => encodeRegs 0o141200 sr dr
  | .rdiv sr => encodeRegs 0o141600 sr none
  | .lbyt => 0o142200
  | .sbyt => 0o142600
  | .movew k => 0o143100 ||| atBit (codeOfMovew k) 0
  | .mix3 => 0o143200
  | .ldatx d => encodeDelta 0o143300 d
  | .ldxtx d => encodeDelta 0o143301 d
  | .lddtx d => encodeDelta 0o143302 d
  | .ldbtx d => encodeDelta 0o143303 d
  | .statx d => encodeDelta 0o143304 d
  | .stztx d => encodeDelta 0o143305 d
  | .stdtx d => encodeDelta 0o143306 d
  | .lwcs => 0o143500
  | .identPl10 => 0o143604
  | .identPl11 => 0o143611
  | .identPl12 => 0o143622
  | .identPl13 => 0o143643
  | .swap cm1 cld sr dr => encodeRop 0o144000 cm1 cld sr dr
  | .rand cm1 cld sr dr => encodeRop 0o144400 cm1 cld sr dr
  | .rexo cm1 cld sr dr => encodeRop 0o145000 cm1 cld sr dr
  | .rora cm1 cld sr dr => encodeRop 0o145400 cm1 cld sr dr
  | .radd adc ad1 cm1 cld sr dr => encodeRop 0o146000 cm1 cld sr dr ||| flagBit adc 9 ||| flagBit ad1 8
  | .copy sr dr => encodeRegs 0o146100 sr dr
  | .rclr dr => encodeRegs 0o146100 none dr
  | .exit => 0o146142
  | .rdcr dr => encodeRegs 0o146200 none dr
  | .rinc dr => encodeRegs 0o146400 none dr
  | .rsub sr dr => encodeRegs 0o146600 sr dr
  | .tra r => 0o150000 ||| atBit r 0
  | .trr r => 0o150100 ||| atBit r 0
  | .mcl r => 0o150200 ||| atBit r 0
  | .mst r => 0o150300 ||| atBit r 0
  | .opcom => 0o150400
  | .iof => 0o150401
  | .ion => 0o150402
  | .pof => 0o150404
  | .piof => 0o150405
  | .sex => 0o150406
  | .rex => 0o150407
  | .pon => 0o150410
  | .pion => 0o150412
  | .ioxt => 0o150415
  | .exam => 0o150416
  | .depo => 0o150417
  | .wait n => encodeByte 0o151000 n
  | .nlz n => encodeByte 0o151400 n
  | .dnz n => encodeByte 0o152000 n
  | .srb l => 0o152402 ||| atBit l 3
  | .lrb l => 0o152600 ||| atBit l 3
  | .mon n => encodeByte 0o153000 n
  | .irw l dr => encodeLevel 0o153400 l dr
  | .irr l dr => encodeLevel 0o153600 l dr
  | .sht t n => encodeShift 0o154000 t n
  | .shd t n => encodeShift 0o154200 t n
  | .sha t n => encodeShift 0o154400 t n
  | .sad t n => encodeShift 0o154600 t n
  | .iox a => 0o164000 ||| atBit a 0
  | .sab n => encodeByte 0o170000 n
  | .saa n => encodeByte 0o170400 n
  | .sat n => encodeByte 0o171000 n
  | .sax n => encodeByte 0o171400 n
  | .aab n => encodeByte 0o172000 n
  | .aaa n => encodeByte 0o172400 n
  | .aat n => encodeByte 0o173000 n
  | .aax n => encodeByte 0o173400 n
  | .bsetZro n dr => encodeLevel 0o174000 n dr
  | .bsetOne n dr => encodeLevel 0o174200 n dr
  | .bsetBcm n dr => encodeLevel 0o174400 n dr
  | .bsetBac n dr => encodeLevel 0o174600 n dr
  | .bskpZro n dr => encodeLevel 0o175000 n dr
  | .bskpOne n dr => encodeLevel 0o175200 n dr
  | .bskpBcm n dr => encodeLevel 0o175400 n dr
  | .bskpBac n dr => encodeLevel 0o175600 n dr
  | .bstc n dr => encodeLevel 0o176000 n dr
  | .bsta n dr => encodeLevel 0o176200 n dr
  | .bldc n dr => encodeLevel 0o176400 n dr
  | .blda n dr => encodeLevel 0o176600 n dr
  | .banc n dr => encodeLevel 0o177000 n dr
  | .band n dr => encodeLevel 0o177200 n dr
  | .borc n dr => encodeLevel 0o177400 n dr
  | .bora n dr => encodeLevel 0o177600 n dr

/-- The bytes of an instruction as memory holds them. -/
def encodeBytes (i : Instr) : List Byte := [highByte (encode i), lowByte (encode i)]

end Sys2Proof
end

