-- ==== Sys2Proof/Machine/Fetch.lean ====
section
/-! DEFINITION. Fetching an instruction and placing one where the next step fetches. -/

namespace Sys2Proof.Machine

/-- A word that is no defined instruction raises code 4 (spec/30_encoding.md R160, spec/60_exceptions.md R480). -/
def illegalInstruction (s : State) : Out := raiseAbort 4 s

/-- Level selection, the fetch at P and the decoding; the continuation gets the instruction (spec/60_exceptions.md
R471, R489, spec/20_memory.md R96). -/
def withFetched (s : State) (k : Instr → State → Out) : Out :=
  (fetchWord s.selectLevel.pc s.selectLevel).andThen fun w s =>
    match decodeWord w with
    | .ok i => k i s
    | .error _ => illegalInstruction s

/-- The instruction's word of a number whose low bits are the instruction (spec/opcode_table.json). -/
def placedWord (nbits w : Nat) : Word := BitVec.ofNat 16 (w % 2 ^ nbits)

/-- A running machine whose next fetch reads memory or a page-table word: paging off, memory everywhere, no bad word. -/
def State.plainFetch (s : State) : State :=
  { s with run := .running, poni := false, badWords := [], cfg := { s.cfg with memMap := [{ base := 0, size := 16777216 }] } }

/-- The word stored where the next step fetches (log 10). -/
def State.placeWord (s : State) (v : Word) : State :=
  let s := { s with run := .running }
  match resolve .fetch .pt s.selectLevel.pc s.selectLevel with
  | .ok (.mem pa) _ => store (.mem pa) v s
  | .ok (.ptab i) _ => store (.ptab i) v s
  | _ =>
    match resolvePhys .fetch (physAddr 0 s.selectLevel.pc) s.plainFetch with
    | .ok t _ => store t v s.plainFetch
    | .stop _ => s

end Sys2Proof.Machine
end

