-- ==== Sys2Proof/Machine/Float.lean ====
section
/-! DEFINITION. Floating point formats, arithmetic and conversion (spec/42_floating_point.md). Arithmetic is exact on
integers times powers of two; where R233 does not fix the result it is a parameter (log 23). -/

namespace Sys2Proof.Machine

/-- The number `num * 2^exp`. -/
structure Dyadic where
  num : Int
  exp : Int
  deriving DecidableEq, Repr

/-- Number of bits of the mantissa, with the leading one (R230, R231). -/
def mantissaBits (fp48 : Bool) : Nat := if fp48 then 32 else 23

/-- The exponent bias (R230, R231). -/
def exponentBias (fp48 : Bool) : Int := if fp48 then 16384 else 256

/-- A magnitude with a sign. -/
def signed (neg : Bool) (n : Nat) : Int := if neg then -(n : Int) else n

/-- The value of a floating word that is zero or normalised; `none` for the words R230 and R231 do not describe.
A 32-bit word stands in bits 31-0. -/
def unpackFloat (fp48 : Bool) (w : BitVec 48) : Option Dyadic :=
  if w = 0 then some { num := 0, exp := 0 }
  else if fp48 then
    if w.getLsbD 31 then
      some { num := signed (w.getLsbD 47) (w.extractLsb' 0 32).toNat, exp := (w.extractLsb' 32 15).toNat - 16416 }
    else none
  else if w.extractLsb' 22 9 = 0 then none
  else
    some
      { num := signed (w.getLsbD 31) (4194304 + (w.extractLsb' 0 22).toNat)
        exp := (w.extractLsb' 22 9).toNat - 279 }

/-- The number of bits of a positive number. -/
def bitLength (n : Nat) : Nat := n.log2 + 1

/-- The mantissa of `g` as exactly `p` bits, if `g` has no more significant bits. -/
def exactMantissa (p g : Nat) : Option Nat :=
  if bitLength g ≤ p then some (g * 2 ^ (p - bitLength g))
  else if g % 2 ^ (bitLength g - p) = 0 then some (g / 2 ^ (bitLength g - p))
  else none

/-- The smallest exponent field of a normalised number (R230: a 32-bit word with E = 0 is not described). -/
def minExponent (fp48 : Bool) : Int := if fp48 then 0 else 1

/-- The largest exponent field. -/
def maxExponent (fp48 : Bool) : Int := if fp48 then 32767 else 511

/-- A floating word from sign, exponent field and mantissa with its leading one (R230, R231). -/
def assembleFloat (fp48 : Bool) (neg : Bool) (e : Nat) (m : Nat) : BitVec 48 :=
  if fp48 then BitVec.ofBool neg ++ BitVec.ofNat 15 e ++ BitVec.ofNat 32 m
  else 0#16 ++ BitVec.ofBool neg ++ BitVec.ofNat 9 e ++ BitVec.ofNat 22 m

/-- The floating word of a number, when it is zero or representable as a normalised number (R233 a). -/
def packFloat (fp48 : Bool) (v : Dyadic) : Option (BitVec 48) :=
  if v.num = 0 then some 0
  else
    let g := v.num.natAbs
    let e := v.exp + bitLength g + exponentBias fp48
    if minExponent fp48 ≤ e ∧ e ≤ maxExponent fp48 then
      (exactMantissa (mantissaBits fp48) g).map fun m => assembleFloat fp48 (decide (v.num < 0)) e.toNat m
    else none

/-- The sum of two numbers. -/
def Dyadic.add (x y : Dyadic) : Dyadic :=
  let e := min x.exp y.exp
  { num := x.num * 2 ^ (x.exp - e).toNat + y.num * 2 ^ (y.exp - e).toNat, exp := e }

/-- The negative of a number. -/
def Dyadic.neg (x : Dyadic) : Dyadic := { num := -x.num, exp := x.exp }

/-- The product of two numbers. -/
def Dyadic.mul (x y : Dyadic) : Dyadic := { num := x.num * y.num, exp := x.exp + y.exp }

/-- The quotient of two numbers with numerators below 2^64, when it is an integer times a power of two. -/
def Dyadic.div (x y : Dyadic) : Option Dyadic :=
  if y.num != 0 && (x.num * 2 ^ 64).tmod y.num == 0 then
    some { num := (x.num * 2 ^ 64).tdiv y.num, exp := x.exp - y.exp - 64 }
  else none

/-- The exact result of an arithmetic function (R233 a). -/
def exactResult (op : FpOp) (x y : Dyadic) : Option Dyadic :=
  match op with
  | .add => some (x.add y)
  | .sub => some (x.add y.neg)
  | .mul => some (x.mul y)
  | .div => x.div y

/-- The floating word of the exact result of an operation on two floating words, where R233 (a) fixes it. -/
def exactFloat (op : FpOp) (fp48 : Bool) (acc m : BitVec 48) : Option (BitVec 48) :=
  (unpackFloat fp48 acc).bind fun x => (unpackFloat fp48 m).bind fun y =>
    (exactResult op x y).bind (packFloat fp48)

/-- `FpAdd`, `FpSub`, `FpMul`, `FpDiv` (R233): result and error. -/
def floatOp (op : FpOp) (fp48 : Bool) (acc m : BitVec 48) (tg : Bool) : BitVec 48 × Bool :=
  if op = .div ∧ m = 0 then (0, true)
  else
    match exactFloat op fp48 acc m with
    | some r => (r, false)
    | none => Config.fpOther op fp48 acc m tg

/-- The floating point accumulator (R232): T, A, D or A, D. -/
def State.accumulator (s : State) : BitVec 48 :=
  (if s.cfg.fp48 then s.reg .t else 0) ++ s.reg .a ++ s.reg .d

/-- The state with the floating point accumulator replaced; on a 32-bit CPU T is not part of it (R232). -/
def State.setAccumulator (s : State) (w : BitVec 48) : State :=
  let t := (s.setReg .a (w.extractLsb' 16 16)).setReg .d (w.extractLsb' 0 16)
  if s.cfg.fp48 then t.setReg .t (w.extractLsb' 32 16) else t

/-- The state with any value in the floating point accumulator (R237; log 23). -/
def State.setAnyAccumulator (s : State) : State :=
  ({ s with free := s.free + 3 } : State).setAccumulator
    (Config.freeWord s.free ++ Config.freeWord (s.free + 1) ++ Config.freeWord (s.free + 2))

/-- The floating operand of a memory reference instruction (R234). -/
def readFloat (m : MemOperand) (s : State) : Res (BitVec 48) :=
  (effAddr m s).bind fun p s =>
    if s.cfg.fp48 then (readThree p.tbl p.addr s).bind fun v s => .ok (v.1 ++ v.2.1 ++ v.2.2) s
    else (readTwo p.tbl p.addr s).bind fun v s => .ok (0#16 ++ v.1 ++ v.2) s

/-- FAD, FSB, FMU: the accumulator receives the result (R234 to R236). -/
def floatArith (op : FpOp) (m : MemOperand) (s : State) : Out :=
  (readFloat m s).andThen fun w s =>
    .next (s.setAccumulator (floatOp op s.cfg.fp48 s.accumulator w (s.flag .tg)).1).advance

/-- FAD (R234). -/
def execFad (m : MemOperand) (s : State) : Out := floatArith .add m s

/-- FSB (R235). -/
def execFsb (m : MemOperand) (s : State) : Out := floatArith .sub m s

/-- FMU (R236). -/
def execFmu (m : MemOperand) (s : State) : Out := floatArith .mul m s

/-- FDV (R237): an error sets Z and leaves any value in the accumulator. -/
def execFdv (m : MemOperand) (s : State) : Out :=
  (readFloat m s).andThen fun w s =>
    let r := floatOp .div s.cfg.fp48 s.accumulator w (s.flag .tg)
    .next (if r.2 then s.setAnyAccumulator.advance.setErrorAndRaise else (s.setAccumulator r.1).advance)

/-- The floating word of `a * 2^(sc - 16)` (R239); it is always representable. -/
def normalize (fp48 : Bool) (a : Word) (scaling : BitVec 8) : BitVec 48 :=
  (packFloat fp48 { num := a.toInt, exp := scaling.toInt - 16 }).getD 0

/-- NLZ (R239). -/
def execNlz (scaling : BitVec 8) (s : State) : Out :=
  .next (s.setAccumulator (normalize s.cfg.fp48 (s.reg .a) scaling)).advance

/-- The integer part of a number, toward zero (R241, D21). -/
def Dyadic.trunc (v : Dyadic) : Int :=
  if 0 ≤ v.exp then v.num * 2 ^ v.exp.toNat else v.num.tdiv (2 ^ (-v.exp).toNat)

/-- The integer of DNZ with scaling -16, where R241 fixes it. -/
def denormalize (fp48 : Bool) (acc : BitVec 48) (scaling : BitVec 8) : Option Int :=
  if scaling = 0xF0#8 then (unpackFloat fp48 acc).map Dyadic.trunc else none

/-- T after DNZ: any value on a 48-bit CPU, unchanged on a 32-bit one (R241). -/
def State.setAnyT48 (s : State) : State :=
  if s.cfg.fp48 then ({ s with free := s.free + 1 } : State).setReg .t (Config.freeWord s.free) else s

/-- DNZ (R241; log 24). -/
def execDnz (scaling : BitVec 8) (s : State) : Out :=
  let s1 := (s.setReg .d 0).setAnyT48.advance
  match denormalize s.cfg.fp48 s.accumulator scaling with
  | some i =>
    if 32767 < i.natAbs then
      (freshWord s1).andThen fun v s1 => .next (s1.setReg .a v).setErrorAndRaise
    else .next (s1.setReg .a (BitVec.ofInt 16 i))
  | none =>
    let r := Config.dnzOther s.cfg.fp48 s.accumulator scaling (s.flag .tg)
    .next (if r.2 then (s1.setReg .a r.1).setErrorAndRaise else s1.setReg .a r.1)

end Sys2Proof.Machine
end

