-- ==== Sys2Proof/Machine/Jump.lean ====
section
/-! DEFINITION. Jumps, the monitor call and SKP (spec/44_jump_mon_skip.md). -/

namespace Sys2Proof.Machine

/-- A conditional jump, relative to its own address (R268). -/
def jumpIf (cond : Bool) (disp : BitVec 8) (s : State) : State :=
  if cond then s.jump (s.pc + sext8 disp) else s.advance

/-- JMP (R266). -/
def execJmp (m : MemOperand) (s : State) : Out := (effAddr m s).andThen fun p s => .next (s.jump p.addr)

/-- JPL (R267): L receives the address of the next word. -/
def execJpl (m : MemOperand) (s : State) : Out :=
  (effAddr m s).andThen fun p s => .next ((s.setReg .l (s.pc + 1)).jump p.addr)

/-- JAP (R269). -/
def execJap (disp : BitVec 8) (s : State) : Out := .next (jumpIf (!(s.reg .a).msb) disp s)

/-- JAN (R270). -/
def execJan (disp : BitVec 8) (s : State) : Out := .next (jumpIf (s.reg .a).msb disp s)

/-- JAZ (R271). -/
def execJaz (disp : BitVec 8) (s : State) : Out := .next (jumpIf (s.reg .a == 0) disp s)

/-- JAF (R272). -/
def execJaf (disp : BitVec 8) (s : State) : Out := .next (jumpIf (s.reg .a != 0) disp s)

/-- JPC (R273): X is counted up first. -/
def execJpc (disp : BitVec 8) (s : State) : Out :=
  .next (jumpIf (!(s.reg .x + 1).msb) disp (s.setReg .x (s.reg .x + 1)))

/-- JNC (R274): X is counted up first. -/
def execJnc (disp : BitVec 8) (s : State) : Out :=
  .next (jumpIf (s.reg .x + 1).msb disp (s.setReg .x (s.reg .x + 1)))

/-- JXZ (R275). -/
def execJxz (disp : BitVec 8) (s : State) : Out := .next (jumpIf (s.reg .x == 0) disp s)

/-- JXN (R276). -/
def execJxn (disp : BitVec 8) (s : State) : Out := .next (jumpIf (s.reg .x).msb disp s)

/-- MON (R277): the number into T of level 14, then internal interrupt 1. -/
def execMon (num : BitVec 8) (s : State) : Out :=
  .next ((s.setLevel 14 { s.level 14 with t := sext8 num }).advance.raiseAfter 1)

/-- `d17 = x + ~y + 1` (R280). -/
def compareSum (x y : Word) : BitVec 17 := x.setWidth 17 + (~~~y).setWidth 17 + 1

/-- The conditions of SKP on the flags S, Z, C, O of `x - y` (R280). -/
def skpTrue (cond : SkpCond) (x y : Word) : Bool :=
  let d := compareSum x y
  let sign := d.getLsbD 15
  let zero := d.setWidth 16 == 0#16
  let carry := d.getLsbD 16
  let overflow := x.msb != y.msb && d.getLsbD 15 != x.msb
  match cond with
  | .eql => zero
  | .geq => !sign
  | .gre => sign == overflow
  | .mgre => carry
  | .ueq => !zero
  | .lss => sign
  | .lst => sign != overflow
  | .mlst => !carry

/-- The operands `(x, y)` of SKP in the order of the installation (R281); P reads as `pc + 1` (R279). -/
def skpOperands (sr dr : Option Reg) (s : State) : Word × Word :=
  let v := s.advance
  match s.cfg.skpOrder with
  | .drMinusSr => (v.regOr0 dr, v.regOr0 sr)
  | .srMinusDr => (v.regOr0 sr, v.regOr0 dr)

/-- SKP (R282). -/
def execSkp (cond : SkpCond) (sr dr : Option Reg) (s : State) : Out :=
  let v := skpOperands sr dr s
  .next (if skpTrue cond v.1 v.2 then s.skip else s.advance)

end Sys2Proof.Machine
end

