-- ==== Sys2Proof/Machine/MemTransfer.lean ====
section
/-! DEFINITION. The memory transfer instructions (spec/41_memory_transfer.md). -/

namespace Sys2Proof.Machine

/-- A load of one register (R202, R205, R206). -/
def loadRegister (r : Reg) (m : MemOperand) (s : State) : Out :=
  (readOperand m s).andThen fun v s => .next (s.setReg r v).advance

/-- A store of one word (R208, R211 to R213). -/
def storeWord (v : Word) (m : MemOperand) (s : State) : Out :=
  (writeOperand m v s).andThen fun _ s => .next s.advance

/-- A with the sum of A and a word, and C, Q, O (R214, R215). -/
def State.addToA (s : State) (y : Word) (cin : Bool) : State :=
  (s.setAdderFlags (s.reg .a) y cin).setReg .a (adderValue (s.reg .a) y cin)

/-- LDA (R202). -/
def execLda (m : MemOperand) (s : State) : Out := loadRegister .a m s

/-- LDT (R205). -/
def execLdt (m : MemOperand) (s : State) : Out := loadRegister .t m s

/-- LDX (R206). -/
def execLdx (m : MemOperand) (s : State) : Out := loadRegister .x m s

/-- LDD (R203). -/
def execLdd (m : MemOperand) (s : State) : Out :=
  (effAddr m s).andThen fun p s => (readTwo p.tbl p.addr s).andThen fun v s =>
    .next ((s.setReg .a v.1).setReg .d v.2).advance

/-- LDF (R204). -/
def execLdf (m : MemOperand) (s : State) : Out :=
  (effAddr m s).andThen fun p s =>
    if s.cfg.fp48 then
      (readThree p.tbl p.addr s).andThen fun v s =>
        .next (((s.setReg .t v.1).setReg .a v.2.1).setReg .d v.2.2).advance
    else
      (readTwo p.tbl p.addr s).andThen fun v s => .next ((s.setReg .a v.1).setReg .d v.2).advance

/-- STZ (R213). -/
def execStz (m : MemOperand) (s : State) : Out := storeWord 0 m s

/-- STA (R208). -/
def execSta (m : MemOperand) (s : State) : Out := storeWord (s.reg .a) m s

/-- STT (R211). -/
def execStt (m : MemOperand) (s : State) : Out := storeWord (s.reg .t) m s

/-- STX (R212). -/
def execStx (m : MemOperand) (s : State) : Out := storeWord (s.reg .x) m s

/-- STD (R209). -/
def execStd (m : MemOperand) (s : State) : Out :=
  (effAddr m s).andThen fun p s =>
    (writeTwo p.tbl p.addr (s.reg .a) (s.reg .d) s).andThen fun _ s => .next s.advance

/-- STF (R210). -/
def execStf (m : MemOperand) (s : State) : Out :=
  (effAddr m s).andThen fun p s =>
    if s.cfg.fp48 then
      (writeThree p.tbl p.addr (s.reg .t) (s.reg .a) (s.reg .d) s).andThen fun _ s => .next s.advance
    else
      (writeTwo p.tbl p.addr (s.reg .a) (s.reg .d) s).andThen fun _ s => .next s.advance

/-- MIN (R207): the next instruction is skipped if the new word is zero. -/
def execMin (m : MemOperand) (s : State) : Out :=
  (effAddr m s).andThen fun p s => (modifyWord p.tbl p.addr (· + 1) s).andThen fun v s =>
    .next (if v + 1 = 0 then s.skip else s.advance)

/-- ADD (R214). -/
def execAdd (m : MemOperand) (s : State) : Out :=
  (readOperand m s).andThen fun v s => .next (s.addToA v false).advance

/-- SUB (R215): A plus the complement plus 1. -/
def execSub (m : MemOperand) (s : State) : Out :=
  (readOperand m s).andThen fun v s => .next (s.addToA (~~~v) true).advance

/-- MPY (R216): the low 16 bits of the product; Q and O by its absolute value. -/
def execMpy (m : MemOperand) (s : State) : Out :=
  (readOperand m s).andThen fun v s =>
    .next ((s.setOverflow (productOverflow (s.reg .a) v)).setReg .a
      (BitVec.ofInt 16 (signedProduct (s.reg .a) v))).advance

/-- AND (spec/41_memory_transfer.md R217). -/
def execAnd (m : MemOperand) (s : State) : Out :=
  (readOperand m s).andThen fun v s => .next (s.setReg .a (s.reg .a &&& v)).advance

/-- ORA (R218). -/
def execOra (m : MemOperand) (s : State) : Out :=
  (readOperand m s).andThen fun v s => .next (s.setReg .a (s.reg .a ||| v)).advance

end Sys2Proof.Machine
end

