-- ==== Sys2Proof/Machine/Register.lean ====
section
/-! DEFINITION. The register instructions (spec/40_register.md), but EXR (Exr.lean). -/

namespace Sys2Proof.Machine

/-- RAND, REXO, RORA: a logical operation into the destination register (R175 to R177). -/
def registerLogic (f : Word → Word → Word) (cm1 cld : Bool) (sr dr : Option Reg) (s : State) : State :=
  let s := s.advance
  s.setRegOr0 dr (f (destOperand cld dr s) (sourceOperand cm1 sr s))

/-- The carry-in of RADD (R178). -/
def carryIn (adc ad1 : Bool) (s : State) : Bool := ad1 || (adc && s.flag .c)

/-- RADD and its compound mnemonics (R178, R172, R173). -/
def registerAdd (adc ad1 cm1 cld : Bool) (sr dr : Option Reg) (s : State) : State :=
  let s := s.advance
  if adc && ad1 then s
  else
    match dr with
    | none => s.setFlag .c false
    | some r =>
      let x := destOperand cld dr s
      let y := sourceOperand cm1 sr s
      let cin := carryIn adc ad1 s
      (s.setAdderFlags x y cin).setReg r (adderValue x y cin)

/-- SWAP (R174). With CLD and one register as both, whether it ends with `S'` or 0 is any value; with CM1 alone it ends
with `S'`, as the sentence of R174 on that case says, and not with the pseudocode's second write `Dv` (log 21). -/
def execSwap (cm1 cld : Bool) (sr dr : Option Reg) (s : State) : Out :=
  let s := s.advance
  let src := sourceOperand cm1 sr s
  match sr, dr with
  | _, none => .next s
  | none, some dst => .next (s.setReg dst src)
  | some r, some dst =>
    if r = dst then
      if cld then
        (freshWord s).andThen fun v s => .next (s.setReg dst (if v.getLsbD 0 then src else 0))
      else .next (s.setReg dst src)
    else .next ((s.setReg dst src).setReg r (destOperand cld dr s))

/-- RAND (R175). -/
def execRand (cm1 cld : Bool) (sr dr : Option Reg) (s : State) : Out :=
  .next (registerLogic (· &&& ·) cm1 cld sr dr s)

/-- REXO (R176). -/
def execRexo (cm1 cld : Bool) (sr dr : Option Reg) (s : State) : Out :=
  .next (registerLogic (· ^^^ ·) cm1 cld sr dr s)

/-- RORA (R177). -/
def execRora (cm1 cld : Bool) (sr dr : Option Reg) (s : State) : Out :=
  .next (registerLogic (· ||| ·) cm1 cld sr dr s)

/-- RADD (R178). -/
def execRadd (adc ad1 cm1 cld : Bool) (sr dr : Option Reg) (s : State) : Out :=
  .next (registerAdd adc ad1 cm1 cld sr dr s)

/-- COPY, RADD CLD (R179). -/
def execCopy (sr dr : Option Reg) (s : State) : Out := .next (registerAdd false false false true sr dr s)

/-- RCLR, COPY of no source (R180). -/
def execRclr (dr : Option Reg) (s : State) : Out := .next (registerAdd false false false true none dr s)

/-- EXIT, COPY SL DP (R181). -/
def execExit (s : State) : Out := .next (registerAdd false false false true (some .l) (some .p) s)

/-- RDCR, RADD CM1 of no source (R182). -/
def execRdcr (dr : Option Reg) (s : State) : Out := .next (registerAdd false false true false none dr s)

/-- RINC, RADD AD1 of no source (R183). -/
def execRinc (dr : Option Reg) (s : State) : Out := .next (registerAdd false true false false none dr s)

/-- RSUB, RADD AD1 CM1 (R184). -/
def execRsub (sr dr : Option Reg) (s : State) : Out := .next (registerAdd false true true false sr dr s)

/-- RMPY (R185): the signed product into A and D; no destination, no operation (R172). -/
def execRmpy (sr dr : Option Reg) (s : State) : Out :=
  let s := s.advance
  match dr with
  | none => .next s
  | some dst =>
    let p := BitVec.ofInt 32 (signedProduct (s.regOr0 sr) (s.reg dst))
    .next ((s.setReg .a (p.extractLsb' 16 16)).setReg .d (p.extractLsb' 0 16))

/-- The quotient of RDIV exists: the divisor is not 0 and the quotient fits 16 bits (R186, D15). -/
def divisionFits (n d : Int) : Bool :=
  d != 0 && decide (-32768 ≤ n.tdiv d) && decide (n.tdiv d ≤ 32767)

/-- RDIV (R186). After an overflow A and D are any value (log 22). -/
def execRdiv (sr : Option Reg) (s : State) : Out :=
  let s := s.advance
  let n := (s.reg .a ++ s.reg .d).toInt
  let d := (s.regOr0 sr).toInt
  if divisionFits n d then
    .next ((s.setReg .a (BitVec.ofInt 16 (n.tdiv d))).setReg .d (BitVec.ofInt 16 (n.tmod d)))
  else
    (freshWord s).andThen fun a s => (freshWord s).andThen fun r s =>
      .next ((s.setReg .a a).setReg .d r).setErrorAndRaise

/-- MIX3 (R188). -/
def execMix3 (s : State) : Out := .next (s.setReg .x ((s.reg .a - 1) * 3)).advance

end Sys2Proof.Machine
end

