-- ==== Sys2Proof/Machine/Shift.lean ====
section
/-! DEFINITION. The shift instructions (spec/43_shift.md). -/

namespace Sys2Proof.Machine

/-- Shift left for a count that is not negative (R251). -/
def shiftsLeft (count : BitVec 6) : Bool := !count.msb

/-- The number of places (R251). -/
def shiftPlaces (count : BitVec 6) : Nat := count.toInt.natAbs

/-- The bit that enters at step `i` (R253). For LIN it is M at the first step and any value later (log 25). -/
def enteringBit {n : Nat} (type : ShiftType) (left m : Bool) (later : BitVec 32) (i : Nat) (v : BitVec n) : Bool :=
  match type with
  | .arith => if left then false else v.msb
  | .rot => if left then v.msb else v.getLsbD 0
  | .zin => false
  | .lin => if i = 0 then m else later.getLsbD i

/-- The bit that a one-place step discards (R253). -/
def discardedBit {n : Nat} (left : Bool) (v : BitVec n) : Bool := if left then v.msb else v.getLsbD 0

/-- A one-place step (R253). -/
def shiftStep {n : Nat} (left enter : Bool) (v : BitVec n) : BitVec n :=
  if left then (v <<< 1) ||| (BitVec.ofBool enter).setWidth n
  else (v >>> 1) ||| ((BitVec.ofBool enter).setWidth n <<< (n - 1))

/-- The steps left to do from step `i` on a value and the last bit discarded (R252, R253). -/
def shiftLoop {n : Nat} (type : ShiftType) (left m : Bool) (later : BitVec 32) :
    Nat → Nat → BitVec n → Bool → BitVec n × Bool
  | _, 0, v, last => (v, last)
  | i, k + 1, v, _ =>
    shiftLoop type left m later (i + 1) k (shiftStep left (enteringBit type left m later i v) v) (discardedBit left v)

/-- The shifted value and M (R252, R253); a shift by no places leaves both (D22). -/
def shiftResult {n : Nat} (type : ShiftType) (count : BitVec 6) (v : BitVec n) (s : State) : BitVec n × Bool :=
  shiftLoop type (shiftsLeft count) (s.flag .m) (Config.freeWord s.free ++ Config.freeWord (s.free + 1)) 0
    (shiftPlaces count) v (s.flag .m)

/-- The state after a shift has set M and used its free values: LIN by more than one place uses two. -/
def State.afterShift (s : State) (type : ShiftType) (count : BitVec 6) (m : Bool) : State :=
  let t := s.setFlag .m m
  if type = .lin ∧ 1 < shiftPlaces count then { t with free := t.free + 2 } else t

/-- A shift of one 16-bit register (R254 to R256). -/
def shiftRegister (r : Reg) (type : ShiftType) (count : BitVec 6) (s : State) : State :=
  let v := shiftResult type count (s.reg r) s
  ((s.afterShift type count v.2).setReg r v.1).advance

/-- SHT (R254). -/
def execSht (type : ShiftType) (count : BitVec 6) (s : State) : Out := .next (shiftRegister .t type count s)

/-- SHD (R255). -/
def execShd (type : ShiftType) (count : BitVec 6) (s : State) : Out := .next (shiftRegister .d type count s)

/-- SHA (R256). -/
def execSha (type : ShiftType) (count : BitVec 6) (s : State) : Out := .next (shiftRegister .a type count s)

/-- SAD (R257): A and D connected, A on the left. -/
def execSad (type : ShiftType) (count : BitVec 6) (s : State) : Out :=
  let v := shiftResult type count (s.reg .a ++ s.reg .d) s
  .next (((s.afterShift type count v.2).setReg .a (v.1.extractLsb' 16 16)).setReg .d (v.1.extractLsb' 0 16)).advance

end Sys2Proof.Machine
end

