-- ==== Sys2Proof/Machine/Privileged.lean ====
section
/-! DEFINITION. The privileged instructions of spec/48_privileged.md: inter-level registers, internal registers,
input and output, interrupt and memory management control, physical memory. Each meaning checks the privilege
(R370). -/

namespace Sys2Proof.Machine

/-! ### Inter-level registers and register blocks -/

/-- A register of a level; STS is its low byte (R372). -/
def readLevelRegister (r : LevelRegs) (dr : StsOrReg) : Word :=
  match dr with
  | .sts => r.sts.setWidth 16
  | .reg c => r.get c

/-- The registers of a level with one written; STS takes the low byte (R373). -/
def writeLevelRegister (r : LevelRegs) (dr : StsOrReg) (v : Word) : LevelRegs :=
  match dr with
  | .sts => { r with sts := oddByte v }
  | .reg c => r.put c v

/-- IRR (R372): P of the current level reads as the address of the IRR (D38). -/
def execIrr (level : Level) (dr : StsOrReg) (s : State) : Out :=
  privileged s (.next (s.setReg .a (readLevelRegister (s.level level) dr)).advance)

/-- IRW (R373): a write to P of the current level is a jump (D38). -/
def execIrw (level : Level) (dr : StsOrReg) (s : State) : Out :=
  let t := s.advance
  privileged s (.next (t.setLevel level (writeLevelRegister (t.level level) dr (s.reg .a))))

/-- The registers of a level loaded from a block of eight words (R374); P only when it is another level (R375). -/
def loadBlock (r : LevelRegs) (other : Bool) (ws : List Word) : LevelRegs :=
  match ws with
  | [p, x, t, a, d, l, sts, b] =>
    { p := if other then p else r.p, x := x, t := t, a := a, d := d, l := l, sts := oddByte sts, b := b }
  | _ => r

/-- The block of eight words of a level's registers (R374). -/
def storeBlock (r : LevelRegs) (p : Word) : List Word := [p, r.x, r.t, r.a, r.d, r.l, r.sts.setWidth 16, r.b]

/-- LRB (R375): all eight words are read before any register is written. -/
def execLrb (level : Level) (s : State) : Out :=
  privileged s
    ((readList s.dataTable (consecutive (s.reg .x) 8) s).andThen fun ws s =>
      let s := s.advance
      .next (s.setLevel level (loadBlock (s.level level) (level != s.pil) ws)))

/-- SRB (R376): P of the current level is stored as the address of the next instruction. -/
def execSrb (level : Level) (s : State) : Out :=
  let r := s.level level
  privileged s
    ((writeList s.dataTable (consecutive (s.reg .x) 8)
      (storeBlock r (if level = s.pil then s.pc + 1 else r.p)) s).andThen fun _ s => .next s.advance)

/-! ### Internal registers -/

/-- A word whose insignificant bits (the ones of the mask) are any value (spec/10_state.md R29; log 16). -/
def fillOpen (mask w : Word) (s : State) : Res Word :=
  (freshWord s).bind fun v s => .ok ((w &&& ~~~mask) ||| (v &&& mask)) s

/-- TRA PANS (spec/10_state.md R38): RDY is cleared; without a panel only bit 15 is defined. -/
def readPans (s : State) : Res Word :=
  let p := s.panel
  let t := { s with panel := { p with rdy := false } }
  if s.cfg.panelInstalled then
    fillOpen 0o4000
      (1#1 ++ BitVec.ofBool p.fif ++ BitVec.ofBool p.dat ++ BitVec.ofBool p.rdy ++ 0#1 ++ p.cmnd ++ p.rpan) t
  else fillOpen 0o77777 0 t

/-- TRA PGS (spec/10_state.md R36). -/
def readPgs (s : State) : Res Word :=
  let g := s.pgs
  match s.cfg.ptMode with
  | .sixteen => fillOpen 0o36000 (BitVec.ofBool g.ff ++ BitVec.ofBool g.pm ++ 0#4 ++ g.pt ++ g.vpn) s
  | .four => fillOpen 0o37400 (BitVec.ofBool g.ff ++ BitVec.ofBool g.pm ++ 0#6 ++ g.pt.extractLsb' 0 2 ++ g.vpn) s

/-- The level field of a PCR word (spec/10_state.md R35). -/
def pcrLevel (w : Word) : Level := w.extractLsb' 3 4

/-- TRA PGC: the PCR of the level in A, in the layout of PCR (spec/10_state.md R37; log 50). -/
def readPgc (s : State) : Res Word :=
  let l := pcrLevel (s.reg .a)
  let c := s.pcr[l.toNat]'l.isLt
  match s.cfg.ptMode with
  | .sixteen => fillOpen 0o100004 (0#1 ++ c.pt ++ c.apt ++ l ++ 0#1 ++ c.ring) s
  | .four => fillOpen 0o174004 (0#5 ++ c.pt.extractLsb' 0 2 ++ c.apt.extractLsb' 0 2 ++ l ++ 0#1 ++ c.ring) s

/-- The PCR that TRR PCR writes (spec/10_state.md R35). -/
def pcrOfWord (mode : PtMode) (w : Word) : Pcr :=
  match mode with
  | .sixteen => { pt := w.extractLsb' 11 4, apt := w.extractLsb' 7 4, ring := w.extractLsb' 0 2 }
  | .four =>
    { pt := (w.extractLsb' 9 2).setWidth 4, apt := (w.extractLsb' 7 2).setWidth 4, ring := w.extractLsb' 0 2 }

/-- The control store word at an address: written, or of the standard microprogram (spec/10_state.md R45; log 7). -/
def controlWord : List (Nat × Word) → Nat → Word
  | [], k => Config.microprogram k
  | (a, v) :: cs, k => if a = k then v else controlWord cs k

/-- The control store with a word written; addresses stay rising. -/
def setControlWord : List (Nat × Word) → Nat → Word → List (Nat × Word)
  | [], k, v => [(k, v)]
  | (a, w) :: cs, k, v =>
    if k < a then (k, v) :: (a, w) :: cs else if k = a then (k, v) :: cs else (a, w) :: setControlWord cs k v

/-- TRA CS (spec/10_state.md R45): with bit 15 of X set any value. -/
def readControl (s : State) : Res Word :=
  if (s.reg .x).msb then freshWord s else .ok (controlWord s.cs (s.reg .x).toNat) s

/-- TRA PES and TRA PEA: any value while unlocked (spec/10_state.md R43; log 17). -/
def readLatched (w : Word) (s : State) : Res Word := if s.peLocked then .ok w s else freshWord s

/-- TRA PVL: the word of IRR <PVL> DP (spec/10_state.md R34). -/
def pvlWord (pvl : Level) : Word := 0b110101111#9 ++ pvl ++ 2#3

/-- The registers TRA reads and the side effects of the reads (R378, R379). -/
def readInternal (reg : BitVec 4) (s : State) : Res Word :=
  match reg with
  | 0o0 => readPans s
  | 0o1 => .ok s.stsWord s
  | 0o2 => .ok s.opr s
  | 0o3 => readPgs s
  | 0o4 => .ok (pvlWord s.pvl) s
  | 0o5 => .ok (s.iic.setWidth 16) { s with iic := 0 }
  | 0o6 => .ok s.pid s
  | 0o7 => .ok s.pie s
  | 0o10 => freshWord s
  | 0o11 => .ok s.requests s
  | 0o12 => .ok s.cfg.ald s
  | 0o13 => readLatched s.pes s
  | 0o14 => readPgc s
  | 0o15 => (readLatched s.pea s).bind fun v s => .ok v { s with peLocked := false }
  | 0o17 => readControl s
  | _ => .stop (.refused (.noSuchInternalRegister reg))

/-- TRA (R379). -/
def execTra (reg : BitVec 4) (s : State) : Out :=
  privileged s ((readInternal reg s).andThen fun v s => .next (s.setReg .a v).advance)

/-- The panel registers after TRR PANC (spec/10_state.md R38). -/
def writePanc (p : Panel) (w : Word) : Panel :=
  { p with ctlDat := w.getLsbD 13, ctlCmnd := w.extractLsb' 8 3, ctlRpan := oddByte w }

/-- The state with a PCR written (spec/10_state.md R35). -/
def State.writePcr (s : State) (w : Word) : State :=
  { s with pcr := s.pcr.set (pcrLevel w).toNat (pcrOfWord s.cfg.ptMode w) (pcrLevel w).isLt }

/-- The registers TRR writes (R378, R380), after `advance`. The cache registers are discarded (spec/10_state.md R40);
a write to PID or PIE is followed by level selection. -/
def writeInternal (reg : BitVec 4) (w : Word) (s : State) : Out :=
  match reg with
  | 0o0 => .next { s with panel := writePanc s.panel w }
  | 0o1 => .next (s.setStsLow (oddByte w))
  | 0o2 => .next { s with lmp := w }
  | 0o3 => .next (s.writePcr w)
  | 0o5 => .next { s with iie := w &&& 0o3776 }
  | 0o6 => .next (s.setPid w).selectLevel
  | 0o7 => .next ({ s with pie := w } : State).selectLevel
  | 0o10 => .next s
  | 0o11 => .next s
  | 0o12 => .next s
  | 0o13 => .next s
  | 0o15 => .next { s with eccr := w.extractLsb' 0 5 }
  | 0o17 =>
    if (s.reg .x).msb then .refused .controlStoreAddress
    else .next { s with cs := setControlWord s.cs (s.reg .x).toNat w }
  | _ => .refused (.noSuchInternalRegister reg)

/-- TRR (R380). -/
def execTrr (reg : BitVec 4) (s : State) : Out := privileged s (writeInternal reg (s.reg .a) s.advance)

/-- MCL and MST: STS, PID or PIE through a function of the old value (R378, R381, R382), after `advance`. -/
def changeInternal (reg : BitVec 4) (f : Word → Word) (s : State) : Out :=
  match reg with
  | 0o1 => .next (s.setStsLow (oddByte (f (s.stsLow.setWidth 16))))
  | 0o6 => .next (s.setPid (f s.pid)).selectLevel
  | 0o7 => .next ({ s with pie := f s.pie } : State).selectLevel
  | _ => .refused (.noSuchInternalRegister reg)

/-- MCL (R381). -/
def execMcl (reg : BitVec 4) (s : State) : Out :=
  privileged s (changeInternal reg (fun v => v &&& ~~~(s.reg .a)) s.advance)

/-- MST (R382). -/
def execMst (reg : BitVec 4) (s : State) : Out :=
  privileged s (changeInternal reg (fun v => v ||| s.reg .a) s.advance)

/-! ### Input and output -/

/-- The state after a transfer with the devices: their history (spec/60_exceptions.md R496; log 13). -/
def State.recordTransfer (s : State) (addr data : Word) (answered : Bool) : State :=
  { s with ioHistory := { addr := addr, data := data, answered := answered } :: s.ioHistory }

/-- The requests on a level that the last transfer leaves (spec/60_exceptions.md R488; log 13). -/
def State.keptRequests (s : State) (l : Level) (requests : List (BitVec 9)) : List (BitVec 9) :=
  requests.filter fun d => !Config.transferWithdraws s.ioHistory l d

/-- The state after the devices have withdrawn the requests that the last transfer acknowledges (spec/60_exceptions.md
R488). No transfer clears a PID bit: R473 names TRR, MCL, WAIT and IDENT as all that do, and a program may have set the bit
(DEDUCED, log 13). -/
def State.withdrawRequests (s : State) : State :=
  { s with
    req10 := s.keptRequests 10 s.req10
    req11 := s.keptRequests 11 s.req11
    req12 := s.keptRequests 12 s.req12
    req13 := s.keptRequests 13 s.req13 }

/-- An input transfer into A, after which a device may withdraw requests (R488); without an answer A is any value and code 7 is raised (R383, spec/60_exceptions.md R485). -/
def ioInput (addr : Word) (s : State) : State :=
  match Config.deviceInput s.ioHistory addr with
  | some v => ((s.recordTransfer addr v true).setReg .a v).withdrawRequests
  | none =>
    (({ s with free := s.free + 1 } : State).recordTransfer addr 0 false |>.setReg .a (Config.freeWord s.free)).raiseAfter 7

/-- An output transfer from A, after which a device may withdraw requests (R488). -/
def ioOutput (addr : Word) (s : State) : State :=
  if Config.deviceAccepts s.ioHistory addr (s.reg .a) then (s.recordTransfer addr (s.reg .a) true).withdrawRequests
  else (s.recordTransfer addr (s.reg .a) false).raiseAfter 7

/-- One transfer; bit 0 of the address gives the direction (R383), after `advance`. -/
def ioTransfer (addr : Word) (s : State) : State := if addr.getLsbD 0 then ioOutput addr s else ioInput addr s

/-- IOX (R383). -/
def execIox (addr : BitVec 11) (s : State) : Out := privileged s (.next (ioTransfer (addr.setWidth 16) s.advance))

/-- IOXT: the address in T (R384, D39). -/
def execIoxt (s : State) : Out := privileged s (.next (ioTransfer (s.reg .t) s.advance))

/-! ### Interrupt control -/

/-- IDENT: the first requesting device, its request withdrawn by `drop`, which keeps the others; with none left the PID
bit is cleared (R385). Level selection follows (spec/60_exceptions.md R471). -/
def identify (l : Nat) (requests : List (BitVec 9)) (drop : List (BitVec 9) → State) (s : State) : State :=
  match requests with
  | [] => s
  | d :: rest =>
    let t := (drop rest).setReg .a (d.setWidth 16)
    (if rest = [] then { t with pid := putBit t.pid l false } else t).selectLevel

/-- IDENT PL10 (R385). -/
def execIdentPl10 (s : State) : Out :=
  let t := s.advance
  privileged s (.next (identify 10 t.req10 (fun r => { t with req10 := r }) t))

/-- IDENT PL11 (R385). -/
def execIdentPl11 (s : State) : Out :=
  let t := s.advance
  privileged s (.next (identify 11 t.req11 (fun r => { t with req11 := r }) t))

/-- IDENT PL12 (R385). -/
def execIdentPl12 (s : State) : Out :=
  let t := s.advance
  privileged s (.next (identify 12 t.req12 (fun r => { t with req12 := r }) t))

/-- IDENT PL13 (R385). -/
def execIdentPl13 (s : State) : Out :=
  let t := s.advance
  privileged s (.next (identify 13 t.req13 (fun r => { t with req13 := r }) t))

/-- IOF (R386). -/
def execIof (s : State) : Out := privileged s (.next { s.advance with ioni := false })

/-- ION (R387): level selection follows. -/
def execIon (s : State) : Out := privileged s (.next ({ s.advance with ioni := true } : State).selectLevel)

/-- PIOF (R388). -/
def execPiof (s : State) : Out := privileged s (.next { s.advance with ioni := false, poni := false })

/-- PION (R389): level selection follows. -/
def execPion (s : State) : Out :=
  privileged s (.next ({ s.advance with ioni := true, poni := true } : State).selectLevel)

/-- What WAIT does after `advance` (R390, D40). -/
def waitState (s : State) : State :=
  if s.ioni = false then { s with run := .stopped }
  else if s.pil = 0 then s
  else s.giveUpPriority

/-- WAIT (R390): the number has no effect. -/
def execWait (_num : BitVec 8) (s : State) : Out := privileged s (.next (waitState s.advance))

/-! ### Memory management -/

/-- POF (R391). -/
def execPof (s : State) : Out := privileged s (.next { s.advance with poni := false })

/-- PON (R392). -/
def execPon (s : State) : Out := privileged s (.next { s.advance with poni := true })

/-- REX (R393). -/
def execRex (s : State) : Out := privileged s (.next { s.advance with sexi := false })

/-- SEX (R394). -/
def execSex (s : State) : Out := privileged s (.next { s.advance with sexi := true })

/-! ### Physical memory, control store, operator -/

/-- DEPO (R395). -/
def execDepo (s : State) : Out :=
  privileged s ((writePhys (physAddr (bankReg (s.reg .a)) (s.reg .d)) (s.reg .t) s).andThen fun _ s => .next s.advance)

/-- EXAM (R396). -/
def execExam (s : State) : Out :=
  privileged s ((readPhys (physAddr (bankReg (s.reg .a)) (s.reg .d)) s).andThen fun v s => .next (s.setReg .t v).advance)

/-- LWCS: no operation (R397). -/
def execLwcs (s : State) : Out := privileged s (.next s.advance)

/-- OPCOM: the operator's communication takes over (R398). -/
def execOpcom (s : State) : Out := privileged s (.next { s.advance with run := .opcom })

/-- The physical effective address of the TX format, `i` words on: the carry out of X is dropped (R399). -/
def txAddress (delta : BitVec 3) (i : Word) (s : State) : PhysAddr :=
  physAddr (bankReg (s.reg .t)) (s.reg .x + delta.setWidth 16 + i)

/-- A physical word into a register through a function. -/
def loadPhysical (delta : BitVec 3) (f : Word → State → State) (s : State) : Out :=
  privileged s ((readPhys (txAddress delta 0 s) s).andThen fun v s => .next (f v s).advance)

/-- A word to physical memory. -/
def storePhysical (delta : BitVec 3) (v : Word) (s : State) : Out :=
  privileged s ((writePhys (txAddress delta 0 s) v s).andThen fun _ s => .next s.advance)

/-- LDATX (R400). -/
def execLdatx (delta : BitVec 3) (s : State) : Out := loadPhysical delta (fun v s => s.setReg .a v) s

/-- LDXTX (R401). -/
def execLdxtx (delta : BitVec 3) (s : State) : Out := loadPhysical delta (fun v s => s.setReg .x v) s

/-- Checking two physical words of the TX format. -/
def resolveTx2 (kind : AccessKind) (delta : BitVec 3) (s : State) : Res (Target × Target) :=
  (resolvePhys kind (txAddress delta 0 s) s).bind fun t1 s =>
    (resolvePhys kind (txAddress delta 1 s) s).bind fun t2 s => .ok (t1, t2) s

/-- LDDTX (R402). -/
def execLddtx (delta : BitVec 3) (s : State) : Out :=
  privileged s
    ((resolveTx2 .read delta s).andThen fun t s => (load t.1 s).andThen fun a s => (load t.2 s).andThen fun d s =>
      .next ((s.setReg .a a).setReg .d d).advance)

/-- LDBTX: the contents doubled, then OR 0o177000 (R403). -/
def execLdbtx (delta : BitVec 3) (s : State) : Out :=
  loadPhysical delta (fun v s => s.setReg .b (0o177000 ||| (2 * v))) s

/-- STATX (R404). -/
def execStatx (delta : BitVec 3) (s : State) : Out := storePhysical delta (s.reg .a) s

/-- STZTX (R405). -/
def execStztx (delta : BitVec 3) (s : State) : Out := storePhysical delta 0 s

/-- STDTX (R406). -/
def execStdtx (delta : BitVec 3) (s : State) : Out :=
  privileged s
    ((resolveTx2 .write delta s).andThen fun t s =>
      .next (store t.2 (s.reg .d) (store t.1 (s.reg .a) s)).advance)

end Sys2Proof.Machine
end

