-- ==== Sys2Proof/Machine/Sintran.lean ====
section
/-! DEFINITION. The SINTRAN III control instructions (spec/49_sintran3.md). All are privileged (R420). `(bank,r).k` of
the listings is the physical word at bank : (r + k), `B.k` an ordinary data word (R451). -/

namespace Sys2Proof.Machine

/-! ### Walks along lists -/

/-- A loop `while X != 0` that polls for an interrupt at the top of an element, for as many elements as the poll lets it run
(R421, D42; log 9). -/
def listLoop (element : State → Res Unit) : Nat → State → Res Unit
  | 0, s => .ok () s
  | n + 1, s => if s.reg .x = 0 then .ok () s else (element s).bind fun _ s => listLoop element n s

/-- A list instruction of R421 to R423: stopped before its end it leaves P at itself and the progress in X; a fault
leaves the progress of the elements before it (spec/60_exceptions.md R492; log 44). -/
def walkList (element : State → Res Unit) (s : State) : Out :=
  privileged s
    ((listLoop element s.pollAfter s).andThen fun _ s => .next (if s.reg .x = 0 then s.advance else s))

/-- A loop `while X != 0` that polls after each element, the last too, with `n` polls that find no interrupt before one
that does (R426, R428, R451; log 9). Whether the loop has come to its end. -/
def pollLoop (element : State → Res Unit) : Nat → State → Res Bool
  | 0, s => if s.reg .x = 0 then .ok true s else (element s).bind fun _ s => .ok false s
  | n + 1, s => if s.reg .x = 0 then .ok true s else (element s).bind fun _ s => pollLoop element n s

/-- A list instruction of R426, R428, R429: an interrupt found by the poll after an element leaves P at itself, after the
last element too; at least one element is handled (`P := P-1 ; EXIT`, R451). -/
def walkPolled (element : State → Res Unit) (s : State) : Out :=
  privileged s
    ((pollLoop element (s.pollAfter - 1) s).andThen fun done s => .next (if done then s.advance else s))

/-- A physical word `k` words from X in a bank. -/
def elementWord (bank : Byte) (k : Word) (s : State) : PhysAddr := physAddr bank (s.reg .x + k)

/-- The page-table entry address of LDBTX (R421, spec/48_privileged.md R403). -/
def ldbtxAddress (w : Word) : Word := 0o177000 ||| (2 * w)

/-- The page-table entry address of CLPT, ENPT and REPT (R426, R428). -/
def entryAddress (w : Word) : Word := 2 * (w ||| 0o176000)

/-- One element of SETPT, in the order of R421. -/
def setptElement (pass : Pass) (s : State) : Res Unit :=
  let bank := bankReg (s.reg .t)
  (readPhys (elementWord bank 2 s) s).bind fun w s => (readPhys (elementWord bank 3 s) s).bind fun d s =>
    (readPhys (elementWord bank 1 s) s).bind fun i s =>
      let a := putBit w 11 false
      let b := ldbtxAddress i
      (writeVirtIn pass s.dataTable b a s).bind fun _ s => (writeVirtIn pass s.dataTable (b + 1) d s).bind fun _ s =>
        (readPhys (elementWord bank 0 s) s).bind fun x s =>
          .ok () ((((s.setReg .a a).setReg .d d).setReg .b b).setReg .x x)

/-- SETPT (R421). -/
def execSetpt (s : State) : Out := walkList (inOrder setptElement) s

/-- The reads of one element of CLEPT (R422): the index word and the entry address, the entry's protect word. -/
def cleptRead (s : State) : Res (Word × Word) :=
  (readPhys (elementWord (bankReg (s.reg .t)) 1 s) s).bind fun w s =>
    (readVirt s.dataTable (ldbtxAddress w) s).bind fun a s => .ok (w, a) s

/-- A used entry is saved and cleared (R422). -/
def cleptSave (pass : Pass) (b a : Word) (s : State) : Res Unit :=
  if a = 0 then .ok () s
  else
    (writePhysIn pass (elementWord (bankReg (s.reg .t)) s.cfg.cleptDisp s) a s).bind fun _ s =>
      writeVirtIn pass s.dataTable b 0 s

/-- The rest of an element of CLEPT: a used entry is saved and cleared; then the link (R422). -/
def cleptFinish (pass : Pass) (w a : Word) (s : State) : Res Unit :=
  (cleptSave pass (ldbtxAddress w) a s).bind fun _ s =>
    (readPhys (elementWord (bankReg (s.reg .t)) 0 s) s).bind fun x s =>
      .ok () (((s.setReg .a a).setReg .b (ldbtxAddress w)).setReg .x x)

/-- One element of CLEPT, in the order of R422. -/
def cleptElement (pass : Pass) (s : State) : Res Unit := (cleptRead s).bind fun v s => cleptFinish pass v.1 v.2 s

/-- CLEPT (R422). -/
def execClept (s : State) : Out := walkList (inOrder cleptElement) s

/-- The bit of a word that stands for its element `i`. -/
def bitPosition (order : BitOrder) (i : BitVec 4) : Nat :=
  match order with
  | .fromBit0 => i.toNat
  | .fromBit15 => 15 - i.toNat

/-- Checking an access to the word of the page map that holds a page: eight words addressed through L (R423; log 37). -/
def resolvePageMap (kind : AccessKind) (page : BitVec 7) (s : State) : Res Target :=
  let a := s.reg .l + (page.extractLsb' 4 3).setWidth 16
  if s.cfg.pageMapPhysical then resolvePhys kind (physAddr (bankReg (s.reg .t)) a) s
  else resolve kind s.dataTable a s

/-- PGU (bit 11) of an entry goes to the bit of its page in the map (R423; log 37). -/
def markPageMap (pass : Pass) (page : BitVec 7) (used : Bool) (s : State) : Res Unit :=
  (resolvePageMap .read page s).bind fun tr s => (resolvePageMap .write page s).bind fun tw s => (load tr s).bind fun m s =>
    .ok () (storeIn pass tw (putBit m (bitPosition s.cfg.pageMapOrder (page.extractLsb' 0 4)) used) s)

/-- One element of CLEPU: the page map, then the rest of CLEPT's element (R423; log 37). -/
def clepuElement (pass : Pass) (s : State) : Res Unit :=
  (cleptRead s).bind fun v s =>
    (markPageMap pass (Config.pageOfIndex v.1) (v.2.getLsbD 11) s).bind fun _ s => cleptFinish pass v.1 v.2 s

/-- CLEPU (R423; log 37). -/
def execClepu (s : State) : Out := walkList (inOrder clepuElement) s

/-- What CLPT does with the entry at `b`, by the sign of A: cleared, saved, or saved and cleared (R426). -/
def clptEntry (pass : Pass) (b : Word) (s : State) : Res Unit :=
  let a := s.reg .a
  if a.msb then writeVirtIn pass s.dataTable b 0 s
  else
    (readVirt s.dataTable b s).bind fun r3 s =>
      if r3 = 0 then .ok () s
      else
        (writePhysIn pass (elementWord s.cmbnk 2 s) r3 s).bind fun _ s =>
          if a = 0 then writeVirtIn pass s.dataTable b 0 s else .ok () s

/-- One element of CLPT, in the order of R426. -/
def clptElement (pass : Pass) (s : State) : Res Unit :=
  (readPhys (elementWord s.cmbnk 3 s) s).bind fun w s => (clptEntry pass (entryAddress w) s).bind fun _ s =>
    (readPhys (elementWord s.cmbnk 0 s) s).bind fun x s => .ok () ((s.setReg .b (entryAddress w)).setReg .x x)

/-- CLPT (R426). -/
def execClpt (s : State) : Out := walkPolled (inOrder clptElement) s

/-- One element of ENPT and REPT (R428, R429): the masked protect word and the page number X/4 into the entry. -/
def enterElement (mask : Word) (pass : Pass) (s : State) : Res Unit :=
  (readPhys (elementWord s.cmbnk 2 s) s).bind fun w s => (readPhys (elementWord s.cmbnk 3 s) s).bind fun i s =>
    let a := w &&& mask
    let b := entryAddress i
    (writeVirtIn pass s.dataTable b a s).bind fun _ s =>
      (writeVirtIn pass s.dataTable (b + 1) (s.reg .x >>> 2) s).bind fun _ s =>
        (readPhys (elementWord s.cmbnk 0 s) s).bind fun x s => .ok () (((s.setReg .a a).setReg .b b).setReg .x x)

/-- ENPT (R428). -/
def execEnpt (s : State) : Out := walkPolled (inOrder (enterElement 0o173777)) s

/-- REPT (R429). -/
def execRept (s : State) : Out := walkPolled (inOrder (enterElement 0o073777)) s

/-! ### Clearing by bitmap -/

/-- The entry addresses of the set bits of one bitmap word, from an address on, two words apart (R427). -/
def bitmapEntries (order : BitOrder) (base : Word) (w : Word) : List Word :=
  (List.range 16).filterMap fun i =>
    if w.getLsbD (bitPosition order (BitVec.ofNat 4 i)) then some (base + BitVec.ofNat 16 (2 * i)) else none

/-- The first entry of the page table that a word of the segment table names in bits 9-6 (R427). -/
def bitmapTable (w : Word) : Word := 0o174000 + 2 * (w &&& 0o1700)

/-- Bitmap word `k` at T : X + k, in the listing's order: the word is read, then the entries of its set bits are cleared
(R427). -/
def clearByWord (pass : Pass) (table : Word) (k : Nat) (s : State) : Res (List Unit) :=
  (readPhys (elementWord (bankReg (s.reg .t)) (BitVec.ofNat 16 k) s) s).bind fun w s =>
    mapRes (fun e => writeVirtIn pass s.dataTable e 0)
      (bitmapEntries s.cfg.rtBitmapOrder (table + BitVec.ofNat 16 (32 * k)) w) s

/-- CNREK and CLNREENT: bitmap word after bitmap word, the entries of its set bits are cleared, so that a word that lies in an
entry cleared before reads as zero (R427, R111, D43; log 36). The listing's `0 =: (R1).0` names no bank; that it is an
ordinary data write, translated with paging on, is the model's choice, and so is that only the eight bitmap words are read:
the listing fetches a ninth, at X + 8, before its exit test, and R427's reading of it names eight (log 36). -/
def clearByBitmap (s : State) : Out :=
  (readPhys (physAddr s.stbnk (s.reg .a + 2)) s).andThen fun w s =>
    let done := fun (s : State) => if s.cfg.cnrekLoadsA then s.setReg .a w else s
    if w = 0 then .next (done s).advance
    else
      (inOrder (fun pass => mapRes (clearByWord pass (bitmapTable w)) (List.range 8)) s).andThen fun _ s =>
        .next (done s).advance

/-- CNREK (R427). -/
def execCnrek (s : State) : Out := privileged s (clearByBitmap s)

/-- CLNREENT, by the listing of CNREK (R424, D43). -/
def execClnreent (s : State) : Out := privileged s (clearByBitmap s)

/-- CHREENTPAGES: the text does not fix its steps (R425: refuse; log 38). -/
def execChreentpages (s : State) : Out := privileged s (.refused .chreentpagesNotDescribed)

/-! ### Page lists -/

/-- The back link of the old head of a page list, to be read and written, if there is an old head (R430). -/
def oldBackLink (r1 : Word) (s : State) : Res (Option (Target × Target)) :=
  if r1 = 0 then .ok none s
  else
    (resolvePhys .read (physAddr s.cmbnk (r1 + 1)) s).bind fun tr s =>
      (resolvePhys .write (physAddr s.cmbnk (r1 + 1)) s).bind fun tw s => .ok (some (tr, tw)) s

/-- The back link that X receives, and the state after the old head has X as its own: the old head's, or the code of the
segment entry. `(B - stsrt) / 2` shifts the wrapped difference right as an unsigned word, the model's choice for a difference
that is negative or odd (R430; log 39). -/
def takeBackLink (old : Option (Target × Target)) (s : State) : Res Word :=
  match old with
  | none => .ok (((s.reg .b - s.stsrt) >>> 1) + 3) s
  | some (tr, tw) => (load tr s).bind fun q s => .ok q (store tw (s.reg .x) s)

/-- INSPL (R430): X becomes the head of the page list of the segment at B. Checks and writes are in the listing's order, the
checks first (spec/60_exceptions.md R489, R492). -/
def insertPage (s : State) : Out :=
  let x := s.reg .x
  let head := physAddr s.stbnk (s.reg .b + 7)
  (readPhys head s).andThen fun r1 s => (resolvePhys .write head s).andThen fun tHead s =>
    (resolvePhys .write (physAddr s.cmbnk x) s).andThen fun tNext s => (oldBackLink r1 s).andThen fun old s =>
      (resolvePhys .write (physAddr s.cmbnk (x + 1)) s).andThen fun tBack s =>
        (resolvePhys .write (physAddr s.cmbnk (x + 3)) s).andThen fun tWord s =>
          (takeBackLink old (store tNext r1 (store tHead x s))).andThen fun q s =>
            .next (store tWord (s.reg .t) (store tBack q s)).advance

/-- INSPL (R430). -/
def execInspl (s : State) : Out := privileged s (insertPage s)

/-- Where REMPL stores the forward link: in the predecessor, or in the segment entry (R431; log 39). -/
def predecessorLink (r2 : Word) (s : State) : PhysAddr :=
  if r2 &&& 3 = 0 then physAddr s.cmbnk r2 else physAddr s.stbnk (r2 * 2 + s.stsrt + 7)

/-- Where the successor of X keeps its back link, if X has a successor (R431). -/
def successorLink (r1 : Word) (s : State) : Res (Option Target) :=
  if r1 = 0 then .ok none s
  else (resolvePhys .write (physAddr s.cmbnk (r1 + 1)) s).bind fun t s => .ok (some t) s

/-- REMPL (R431): X is unlinked. Checks and writes are in the listing's order, the checks first (spec/60_exceptions.md
R489, R492). -/
def removePage (s : State) : Out :=
  let x := s.reg .x
  (readPhys (physAddr s.cmbnk x) s).andThen fun r1 s => (readPhys (physAddr s.cmbnk (x + 1)) s).andThen fun r2 s =>
    (resolvePhys .write (predecessorLink r2 s) s).andThen fun tPrev s => (successorLink r1 s).andThen fun tSucc s =>
      (resolvePhys .write (physAddr s.cmbnk x) s).andThen fun tNext s =>
        (resolvePhys .write (physAddr s.cmbnk (x + 1)) s).andThen fun tBack s =>
          let s := storeList tSucc.toList [r2] (store tPrev r1 s)
          .next (store tBack 0 (store tNext 0 s)).advance

/-- REMPL (R431). -/
def execRempl (s : State) : Out := privileged s (removePage s)

/-! ### Global pointers and table access -/

/-- WGLOB (R432; banks keep their low byte, D37). -/
def execWglob (s : State) : Out :=
  privileged s
    (.next { s.advance with stbnk := bankReg (s.reg .t), stsrt := s.reg .a, cmbnk := bankReg (s.reg .d) })

/-- RGLOB (R433). -/
def execRglob (s : State) : Out :=
  privileged s
    (.next (((s.setReg .t (s.stbnk.setWidth 16)).setReg .a s.stsrt).setReg .d (s.cmbnk.setWidth 16)).advance)

/-- The address of the table-access instructions (R434). -/
def tableAddress (bank : Byte) (delta : BitVec 3) (s : State) : PhysAddr :=
  physAddr bank (s.reg .b + delta.setWidth 16)

/-- A table word into a register. -/
def loadTable (r : Reg) (bank : Byte) (delta : BitVec 3) (s : State) : Out :=
  privileged s ((readPhys (tableAddress bank delta s) s).andThen fun v s => .next (s.setReg r v).advance)

/-- A word into a table. -/
def storeTable (v : Word) (bank : Byte) (delta : BitVec 3) (s : State) : Out :=
  privileged s ((writePhys (tableAddress bank delta s) v s).andThen fun _ s => .next s.advance)

/-- LASB (R435). -/
def execLasb (delta : BitVec 3) (s : State) : Out := loadTable .a s.stbnk delta s

/-- SASB (R436). -/
def execSasb (delta : BitVec 3) (s : State) : Out := storeTable (s.reg .a) s.stbnk delta s

/-- LACB (R437). -/
def execLacb (delta : BitVec 3) (s : State) : Out := loadTable .a s.cmbnk delta s

/-- SACB (R438). -/
def execSacb (delta : BitVec 3) (s : State) : Out := storeTable (s.reg .a) s.cmbnk delta s

/-- LXSB (R439). -/
def execLxsb (delta : BitVec 3) (s : State) : Out := loadTable .x s.stbnk delta s

/-- LXCB (R440). -/
def execLxcb (delta : BitVec 3) (s : State) : Out := loadTable .x s.cmbnk delta s

/-- SZSB (R441). -/
def execSzsb (delta : BitVec 3) (s : State) : Out := storeTable 0 s.stbnk delta s

/-- SZCB (R442). -/
def execSzcb (delta : BitVec 3) (s : State) : Out := storeTable 0 s.cmbnk delta s

/-! ### Bit, byte and semaphore access -/

/-- The word of a bit array that holds bit A (R443). -/
def bitArrayWord (s : State) : Word := s.reg .x + (s.reg .a >>> 4)

/-- `BitIndex(A[3:0])` (R443, D41). -/
def bitArrayBit (s : State) : Nat := bitPosition s.cfg.bitIndex ((s.reg .a).extractLsb' 0 4)

/-- The physical address of the word of a bit array in the bank in T (R444). -/
def bitArrayPhys (s : State) : PhysAddr := physAddr (bankReg (s.reg .t)) (bitArrayWord s)

/-- LBIT (R443). -/
def execLbit (s : State) : Out :=
  privileged s ((readVirt s.dataTable (bitArrayWord s) s).andThen fun w s =>
    .next (s.setFlag .k (w.getLsbD (bitArrayBit s))).advance)

/-- LBITP (R444). -/
def execLbitp (s : State) : Out :=
  privileged s ((readPhys (bitArrayPhys s) s).andThen fun w s =>
    .next (s.setFlag .k (w.getLsbD (bitArrayBit s))).advance)

/-- SBIT (R445). -/
def execSbit (s : State) : Out :=
  privileged s
    ((modifyWord s.dataTable (bitArrayWord s) (fun w => putBit w (bitArrayBit s) (s.flag .k)) s).andThen fun _ s =>
      .next s.advance)

/-- SBITP (R446). -/
def execSbitp (s : State) : Out :=
  privileged s
    ((modifyPhys (bitArrayPhys s) (fun w => putBit w (bitArrayBit s) (s.flag .k)) s).andThen fun _ s =>
      .next s.advance)

/-- The physical address of the word that holds byte X of the array at T in the bank in D (R447). -/
def bytePhys (s : State) : PhysAddr := physAddr (bankReg (s.reg .d)) (textByte s).addr

/-- LBYTP (R447). -/
def execLbytp (s : State) : Out :=
  privileged s ((readPhys (bytePhys s) s).andThen fun w s =>
    .next (s.setReg .a ((byteOf (textByte s).odd w).setWidth 16)).advance)

/-- SBYTP (R448). -/
def execSbytp (s : State) : Out :=
  privileged s
    ((modifyPhys (bytePhys s) (fun w => putByte (textByte s).odd w (oddByte (s.reg .a))) s).andThen fun _ s =>
      .next s.advance)

/-- The physical word at X in the bank in T (R449). -/
def semaphorePhys (s : State) : PhysAddr := physAddr (bankReg (s.reg .t)) (s.reg .x)

/-- TSETP (R449): one indivisible read and write. -/
def execTsetp (s : State) : Out :=
  privileged s ((modifyPhys (semaphorePhys s) (fun _ => 0xFFFF) s).andThen fun v s => .next (s.setReg .a v).advance)

/-- RDUSP (R450). -/
def execRdusp (s : State) : Out :=
  privileged s ((readPhys (semaphorePhys s) s).andThen fun v s => .next (s.setReg .a v).advance)

end Sys2Proof.Machine
end

