-- ==== Sys2Proof/Machine/Stack.lean ====
section
/-! DEFINITION. The stack instructions, RDUS and TSET (spec/47_decimal_stack.md R355 to R361). -/

namespace Sys2Proof.Machine

/-- The addresses of the entries of a frame (R355). -/
def linkOf (b : Word) : Word := b - 0o200
def prevbOf (b : Word) : Word := b - 0o177
def stpOf (b : Word) : Word := b - 0o176
def smaxOf (b : Word) : Word := b - 0o175
def errcodeOf (b : Word) : Word := b - 0o173

/-- `demand + newB` is beyond `smax`, as unsigned addresses and without wrap (R357, D33; log 35). -/
def enterOverflow (demand newB smax : Word) : Bool := decide (smax.toNat < demand.toNat + newB.toNat)

/-- Writing LINK, PREVB, STP and SMAX of a new frame (R357, R358), all checked first (R355). -/
def writeFrame (newB l prevb stp smax : Word) (s : State) : Res Unit :=
  writeList s.dataTable [linkOf newB, prevbOf newB, stpOf newB, smaxOf newB] [l + 1, prevb, stp, smax] s

/-- ENTR (R357). -/
def execEntr (s : State) : Out :=
  let b0 := s.reg .b
  (readVirt .pt (s.pc + 1) s).andThen fun demand s =>
    (readVirt s.dataTable (stpOf b0) s).andThen fun stp s =>
      (readVirt s.dataTable (smaxOf b0) s).andThen fun smax s =>
        let newB := stp + 0o200
        if enterOverflow demand newB smax then .next (s.jump (s.pc + 2))
        else
          (writeFrame newB (s.reg .l) b0 (demand + newB) smax s).andThen fun _ s =>
            .next ((s.setReg .b newB).jump (s.pc + 3))

/-- The error test of INIT: the flag word against PTM, and the stack size (R358, D33; log 35). -/
def initError (ptm : Bool) (flag stp smax : Word) : Bool := flag.getLsbD 0 != ptm || decide (smax < stp)

/-- INIT (R358). -/
def execInit (s : State) : Out :=
  (readVirt .pt (s.pc + 1) s).andThen fun demand s => (readVirt .pt (s.pc + 2) s).andThen fun start s =>
    (readVirt .pt (s.pc + 3) s).andThen fun size s => (readVirt .pt (s.pc + 4) s).andThen fun flag s =>
      let newB := start + 0o200
      let stp := demand + newB
      let smax := start + size
      if initError (s.flag .ptm) flag stp smax then .next (s.jump (s.pc + 6))
      else
        (writeFrame newB (s.reg .l) (s.reg .b) stp smax s).andThen fun _ s =>
          .next ((s.setReg .b newB).jump (s.pc + 7))

/-- LEAVE (R359). -/
def execLeave (s : State) : Out :=
  (readVirt s.dataTable (linkOf (s.reg .b)) s).andThen fun link s =>
    (readVirt s.dataTable (prevbOf (s.reg .b)) s).andThen fun prevb s =>
      .next ((s.setReg .b prevb).jump link)

/-- The accesses of ELEAV in the order of R356: LINK less 1, PREVB, and A as ERRCODE of the frame returned to (D34). The new B
and P. -/
def leaveWithError (pass : Pass) (s : State) : Res (Word × Word) :=
  (readVirt s.dataTable (linkOf (s.reg .b)) s).bind fun link s =>
    (writeVirtIn pass s.dataTable (linkOf (s.reg .b)) (link - 1) s).bind fun _ s =>
      (readVirt s.dataTable (prevbOf (s.reg .b)) s).bind fun prevb s =>
        (writeVirtIn pass s.dataTable (errcodeOf prevb) (s.reg .a) s).bind fun _ s => .ok (prevb, link - 1) s

/-- ELEAV (R356), all checks before the first transfer (R355). -/
def execEleav (s : State) : Out :=
  (inOrder leaveWithError s).andThen fun v s => .next ((s.setReg .b v.1).jump v.2)

/-- RDUS (R360). -/
def execRdus (s : State) : Out :=
  (readVirt s.dataTable (s.reg .t) s).andThen fun v s => .next (s.setReg .a v).advance

/-- TSET (R361): one indivisible read and write. -/
def execTset (s : State) : Out :=
  (modifyWord s.dataTable (s.reg .t) (fun _ => 0xFFFF) s).andThen fun v s => .next (s.setReg .a v).advance

end Sys2Proof.Machine
end

