-- ==== Sys2Proof/Machine/Exr.lean ====
section
/-! DEFINITION. EXR (spec/40_register.md R187). The instruction it executes has the meaning the dispatch gives it. -/

namespace Sys2Proof.Machine

/-- An instruction executed by EXR, at the address of the EXR. An EXR there sets Z and does nothing else (R187, D16). -/
def execInner (i : Instr) (s : State) : Out :=
  match i with
  | .stz m => execStz m s
  | .sta m => execSta m s
  | .stt m => execStt m s
  | .stx m => execStx m s
  | .std m => execStd m s
  | .ldd m => execLdd m s
  | .stf m => execStf m s
  | .ldf m => execLdf m s
  | .min m => execMin m s
  | .lda m => execLda m s
  | .ldt m => execLdt m s
  | .ldx m => execLdx m s
  | .add m => execAdd m s
  | .sub m => execSub m s
  | .and m => execAnd m s
  | .ora m => execOra m s
  | .fad m => execFad m s
  | .fsb m => execFsb m s
  | .fmu m => execFmu m s
  | .fdv m => execFdv m s
  | .mpy m => execMpy m s
  | .jmp m => execJmp m s
  | .jpl m => execJpl m s
  | .jap disp => execJap disp s
  | .jan disp => execJan disp s
  | .jaz disp => execJaz disp s
  | .jaf disp => execJaf disp s
  | .jpc disp => execJpc disp s
  | .jnc disp => execJnc disp s
  | .jxz disp => execJxz disp s
  | .jxn disp => execJxn disp s
  | .skp cond sr dr => execSkp cond sr dr s
  | .addd => execAddd s
  | .subd => execSubd s
  | .comd => execComd s
  | .tset => execTset s
  | .pack => execPack s
  | .upack => execUpack s
  | .shde => execShde s
  | .rdus => execRdus s
  | .bfill => execBfill s
  | .movb => execMovb s
  | .movbf => execMovbf s
  | .versn => execVersn s
  | .init => execInit s
  | .entr => execEntr s
  | .leave => execLeave s
  | .eleav => execEleav s
  | .setpt => execSetpt s
  | .clept => execClept s
  | .clnreent => execClnreent s
  | .chreentpages => execChreentpages s
  | .clepu => execClepu s
  | .wglob => execWglob s
  | .rglob => execRglob s
  | .inspl => execInspl s
  | .rempl => execRempl s
  | .cnrek => execCnrek s
  | .clpt => execClpt s
  | .enpt => execEnpt s
  | .rept => execRept s
  | .lbit => execLbit s
  | .lbitp => execLbitp s
  | .sbit => execSbit s
  | .sbitp => execSbitp s
  | .lbytp => execLbytp s
  | .sbytp => execSbytp s
  | .tsetp => execTsetp s
  | .rdusp => execRdusp s
  | .exr _ => .next s.advance.setErrorAndRaise
  | .lasb delta => execLasb delta s
  | .sasb delta => execSasb delta s
  | .lacb delta => execLacb delta s
  | .sacb delta => execSacb delta s
  | .lxsb delta => execLxsb delta s
  | .lxcb delta => execLxcb delta s
  | .szsb delta => execSzsb delta s
  | .szcb delta => execSzcb delta s
  | .rmpy sr dr => execRmpy sr dr s
  | .rdiv sr => execRdiv sr s
  | .lbyt => execLbyt s
  | .sbyt => execSbyt s
  | .movew kind => execMovew kind s
  | .mix3 => execMix3 s
  | .ldatx delta => execLdatx delta s
  | .ldxtx delta => execLdxtx delta s
  | .lddtx delta => execLddtx delta s
  | .ldbtx delta => execLdbtx delta s
  | .statx delta => execStatx delta s
  | .stztx delta => execStztx delta s
  | .stdtx delta => execStdtx delta s
  | .lwcs => execLwcs s
  | .identPl10 => execIdentPl10 s
  | .identPl11 => execIdentPl11 s
  | .identPl12 => execIdentPl12 s
  | .identPl13 => execIdentPl13 s
  | .swap cm1 cld sr dr => execSwap cm1 cld sr dr s
  | .rand cm1 cld sr dr => execRand cm1 cld sr dr s
  | .rexo cm1 cld sr dr => execRexo cm1 cld sr dr s
  | .rora cm1 cld sr dr => execRora cm1 cld sr dr s
  | .radd adc ad1 cm1 cld sr dr => execRadd adc ad1 cm1 cld sr dr s
  | .copy sr dr => execCopy sr dr s
  | .rclr dr => execRclr dr s
  | .exit => execExit s
  | .rdcr dr => execRdcr dr s
  | .rinc dr => execRinc dr s
  | .rsub sr dr => execRsub sr dr s
  | .tra reg => execTra reg s
  | .trr reg => execTrr reg s
  | .mcl reg => execMcl reg s
  | .mst reg => execMst reg s
  | .opcom => execOpcom s
  | .iof => execIof s
  | .ion => execIon s
  | .pof => execPof s
  | .piof => execPiof s
  | .sex => execSex s
  | .rex => execRex s
  | .pon => execPon s
  | .pion => execPion s
  | .ioxt => execIoxt s
  | .exam => execExam s
  | .depo => execDepo s
  | .wait num => execWait num s
  | .nlz scaling => execNlz scaling s
  | .dnz scaling => execDnz scaling s
  | .srb level => execSrb level s
  | .lrb level => execLrb level s
  | .mon num => execMon num s
  | .irw level dr => execIrw level dr s
  | .irr level dr => execIrr level dr s
  | .sht type count => execSht type count s
  | .shd type count => execShd type count s
  | .sha type count => execSha type count s
  | .sad type count => execSad type count s
  | .iox addr => execIox addr s
  | .sab num => execSab num s
  | .saa num => execSaa num s
  | .sat num => execSat num s
  | .sax num => execSax num s
  | .aab num => execAab num s
  | .aaa num => execAaa num s
  | .aat num => execAat num s
  | .aax num => execAax num s
  | .bsetZro bn dr => execBsetZro bn dr s
  | .bsetOne bn dr => execBsetOne bn dr s
  | .bsetBcm bn dr => execBsetBcm bn dr s
  | .bsetBac bn dr => execBsetBac bn dr s
  | .bskpZro bn dr => execBskpZro bn dr s
  | .bskpOne bn dr => execBskpOne bn dr s
  | .bskpBcm bn dr => execBskpBcm bn dr s
  | .bskpBac bn dr => execBskpBac bn dr s
  | .bstc bn dr => execBstc bn dr s
  | .bsta bn dr => execBsta bn dr s
  | .bldc bn dr => execBldc bn dr s
  | .blda bn dr => execBlda bn dr s
  | .banc bn dr => execBanc bn dr s
  | .band bn dr => execBand bn dr s
  | .borc bn dr => execBorc bn dr s
  | .bora bn dr => execBora bn dr s

/-- EXR (R187): the word in the source register is executed; a word that is no instruction is illegal (log 43). -/
def execExr (sr : Option Reg) (s : State) : Out :=
  match decodeWord (s.advance.regOr0 sr) with
  | .ok i => execInner i s
  | .error _ => illegalInstruction s

end Sys2Proof.Machine
end

