-- ==== Sys2Proof/Machine/Step.lean ====
section
/-! DEFINITION. One step of the machine. -/

namespace Sys2Proof.Machine

/-- A stopped machine and one in the operator's hands execute nothing (spec/60_exceptions.md R499, R500); a running
one selects the level (R471), fetches, decodes and executes one instruction. -/
def step (s : State) : Host.Outcome State Fault Refusal :=
  match s.run with
  | .stopped => .fault .stopped
  | .opcom => .fault .operatorHasControl
  | .running => withFetched s exec

/-- The instruction of a number placed where the next step fetches it (log 10). -/
def State.withFetchWord (s : State) (nbits w : Nat) : State := s.placeWord (placedWord nbits w)

end Sys2Proof.Machine
end

