-- ==== Sys2Proof/Safety.lean ====
section
/-! DEFINITION. The invariants of the machine, what counts as a safe run, and the words in which the statements say what
an instruction changes and leaves. -/

namespace Sys2Proof.Machine

/-- Memory and page tables are in canonical form (logs 1, 2). -/
def State.memoryWf (s : State) : Prop :=
  Memory.wf Memory.physBytes s.mem = true ∧ Memory.wf Memory.ptabBytes s.ptab = true

/-- The current level is the one that spec/60_exceptions.md R471 selects. -/
def State.settled (s : State) : Prop := s.ioni = true → s.pil = s.topLevel

/-- The PID bit of a level is 1 while a device requests on it (spec/60_exceptions.md R488). -/
def State.devicesPend (s : State) : Prop := s.deviceLines &&& ~~~s.pid = 0

/-- What holds between any two instructions. -/
structure State.Inv (s : State) : Prop where
  memory : s.memoryWf
  settled : s.settled
  devices : s.devicesPend

/-- An outcome whose next state, if it has one, satisfies `Q`. -/
def Holds (Q : State → Prop) (o : Out) : Prop := ∀ t, o = .next t → Q t

/-- A machine that takes a step. -/
def State.Safe (s : State) : Prop := ∃ t, step s = .next t

/-! ### Memory -/

/-- The words of the page tables keep all bits but PGU and WIP (spec/20_memory.md R100). -/
def State.pageBitsOnly (s t : State) : Prop :=
  ∀ i, Memory.word t.ptab i &&& 0o163777 = Memory.word s.ptab i &&& 0o163777

/-- The bytes of physical memory that a target covers. -/
def Target.memBytes (t : Target) : List Nat :=
  match t with
  | .mem pa => [2 * pa.toNat, 2 * pa.toNat + 1]
  | _ => []

/-- The bytes of the page tables that a target covers. -/
def Target.ptabBytes (t : Target) : List Nat :=
  match t with
  | .ptab i => [2 * i.toNat, 2 * i.toNat + 1]
  | _ => []

/-- An access without a store changes nothing but PGU and WIP bits of page-table entries, and with paging off not even
these (spec/20_memory.md R96, R97, R101). -/
structure State.Accessed (s t : State) : Prop where
  same : { t with ptab := s.ptab, free := s.free } = s
  off : s.poni = false → t.ptab = s.ptab
  bits : Memory.wf Memory.ptabBytes s.ptab = true →
    Memory.wf Memory.ptabBytes t.ptab = true ∧ s.pageBitsOnly t

/-- What an instruction leaves: the registers of the current level but those listed, its flags but those listed, every
other level, every special register, every byte of memory and of the page tables outside the stored targets, but PGU and
WIP bits of page-table entries with paging on. -/
structure State.Frame (regs : List Reg) (flags : List Flag) (stored : List Target) (s t : State) : Prop where
  regs : ∀ r, r ∉ regs → t.reg r = s.reg r
  flags : ∀ f, f ∉ flags → t.flag f = s.flag f
  levels : ∀ l, l ≠ s.pil → t.level l = s.level l
  special : { t with levels := s.levels, mem := s.mem, ptab := s.ptab, free := s.free } = s
  mem : ∀ a, a ∉ stored.flatMap Target.memBytes → Memory.get t.mem a = Memory.get s.mem a
  ptabOff : s.poni = false → ∀ a, a ∉ stored.flatMap Target.ptabBytes → Memory.get t.ptab a = Memory.get s.ptab a
  ptabOn : ∀ i, 2 * i ∉ stored.flatMap Target.ptabBytes →
    Memory.word t.ptab i &&& 0o163777 = Memory.word s.ptab i &&& 0o163777

/-- What an instruction with a refused access answers (spec/60_exceptions.md R476 to R479, R483, R484, R492): code 2, 3, 0o10
or 0o11 in a state with every register of every level, P among them, and every word of memory as it was; PGU and WIP bits,
and PGS, PES and PEA for the rules of the code, may have changed. -/
def State.Refused (s : State) (o : Out) : Prop :=
  ∃ code ∈ [2#4, 3, 0o10, 0o11], ∃ u, o = raiseAbort code u ∧
    s.Accessed { u with pgs := s.pgs, pes := s.pes, pea := s.pea, peLocked := s.peLocked }

/-- If one of these accesses is refused, the instruction ends with it, before it has changed a register or a word. -/
def Res.Ends {α : Type} (accesses : Res α) (i : Instr) (s : State) : Prop :=
  ∀ o, accesses = .stop o → exec i s = o ∧ s.Refused o

/-- The word at a target: memory or a page-table word. -/
def State.wordAt (s : State) (t : Target) : Word :=
  match t with
  | .mem pa => Memory.word s.mem pa.toNat
  | .ptab i => Memory.word s.ptab i.toNat
  | .absent => 0

/-- The entry to level 14 for an internal interrupt (spec/60_exceptions.md R477, R492): IIC, PID bit 14, PVL, PIL; every
register of every level, P among them, every word of memory and every other special register is as it was; the page
tables keep all but PGU and WIP bits; PGS, PES and PEA are for the rules of the code. -/
structure State.Trapped (code : BitVec 4) (s t : State) : Prop where
  iic : t.iic = code
  pid : t.pid = putBit s.pid 14 true
  pil : t.pil = 14
  pvl : t.pvl = s.pil
  levels : t.levels = s.levels
  mem : t.mem = s.mem
  bits : s.pageBitsOnly t
  special :
    { t with
      iic := s.iic, pid := s.pid, pil := s.pil, pvl := s.pvl, pgs := s.pgs, pes := s.pes, pea := s.pea
      peLocked := s.peLocked, ptab := s.ptab, free := s.free } = s

/-! ### Words of the statements -/

/-- The accesses of a memory reference operand read the word. -/
def State.reads (s : State) (m : MemOperand) (v : Word) : Prop := ∃ u, readOperand m s = .ok v u

/-- The accesses of a memory reference operand reach the target of a write. -/
def State.writes (s : State) (m : MemOperand) (g : Target) : Prop :=
  ∃ p u w, effAddr m s = .ok p u ∧ resolve .write p.tbl p.addr u = .ok g w

/-- A read and then a write of one virtual address: the word read and the target written. -/
def State.modifies (s : State) (tbl : Table) (a v : Word) (g : Target) : Prop :=
  ∃ gr u w, resolve .read tbl a s = .ok gr u ∧ resolve .write tbl a u = .ok g w ∧ (peek gr w).1 = v

/-- A read and then a write of one physical address. -/
def State.modifiesPhys (s : State) (pa : PhysAddr) (v : Word) (g : Target) : Prop :=
  ∃ gr u w, resolvePhys .read pa s = .ok gr u ∧ resolvePhys .write pa u = .ok g w ∧ (peek gr w).1 = v

/-- The value of a register operand: code 0 is zero and P is the address of the next instruction
(spec/40_register.md R170). -/
def State.operandOf (s : State) (r : Option Reg) : Word :=
  match r with
  | none => 0
  | some .p => s.reg .p + 1
  | some c => s.reg c

/-- A result goes to a destination register, if there is one; in P it is the next address (R172, R190). -/
def State.Lands (s t : State) (dr : Option Reg) (v : Word) : Prop :=
  t.reg .p = (if dr = some .p then v else s.reg .p + 1) ∧ ∀ r, dr = some r → t.reg r = v

/-- The operand of a bit instruction (spec/45_argument_bit.md R301). -/
def State.bitAt (s : State) (bn : BitVec 4) (dr : StsOrReg) : Bool :=
  match dr with
  | .sts => s.stsLow.getLsbD bn.toNat
  | .reg r => (s.operandOf (some r)).getLsbD bn.toNat

/-- The bit of a bit instruction written, and no other bit of its register. -/
def State.BitWritten (s t : State) (bn : BitVec 4) (dr : StsOrReg) (b : Bool) : Prop :=
  match dr with
  | .sts => t.stsLow = putBit s.stsLow bn.toNat b ∧ t.reg .p = s.reg .p + 1
  | .reg r => s.Lands t (some r) (putBit (s.operandOf (some r)) bn.toNat b)

/-- The register that a bit instruction names, if it is not STS. -/
def regsOf (dr : StsOrReg) : List Reg :=
  match dr with
  | .sts => []
  | .reg r => [r]

/-- All flags. -/
def allFlags : List Flag := [.ptm, .tg, .k, .z, .q, .o, .c, .m]

/-- A signed number that does not fit a word. -/
def outOfWord (n : Int) : Bool := decide (n < -32768) || decide (32767 < n)

/-- The relation of SKP on its operands (spec/44_jump_mon_skip.md R280). -/
def skpRelation (cond : SkpCond) (x y : Word) : Bool :=
  match cond with
  | .eql => decide (x = y)
  | .geq => decide (0 ≤ (x - y).toInt)
  | .gre => decide (y.toInt ≤ x.toInt)
  | .mgre => decide (y.toNat ≤ x.toNat)
  | .ueq => decide (x ≠ y)
  | .lss => decide ((x - y).toInt < 0)
  | .lst => decide (x.toInt < y.toInt)
  | .mlst => decide (x.toNat < y.toNat)

/-- The privileged instructions (spec/48_privileged.md R370, spec/46_byte_block_version.md R327). -/
def isPrivileged (i : Instr) : Bool :=
  match i with
  | .chreentpages | .clept | .clepu | .clnreent | .clpt | .cnrek | .depo | .enpt | .exam | .identPl10 | .identPl11
  | .identPl12 | .identPl13 | .inspl | .iof | .ion | .iox _ | .ioxt | .irr _ _ | .irw _ _ | .lacb _ | .lasb _ | .lbit
  | .lbitp | .ldatx _ | .ldbtx _ | .lddtx _ | .ldxtx _ | .lrb _ | .lxcb _ | .lxsb _ | .mcl _ | .mst _ | .opcom | .piof
  | .pion | .pof | .pon | .rdusp | .rempl | .rept | .rex | .rglob | .sacb _ | .sasb _ | .sbit | .sbitp | .sbytp
  | .setpt | .sex | .srb _ | .statx _ | .stdtx _ | .stztx _ | .szcb _ | .szsb _ | .tra _ | .trr _ | .tsetp | .wait _
  | .wglob | .lbytp | .lwcs => true
  | .movew .ptPhys | .movew .aptPhys | .movew .physPt | .movew .physApt | .movew .physPhys => true
  | _ => false

/-! ### Memory with paging off -/

/-- Paging is off, every physical address holds memory and no access to it fails. -/
def State.plain (s : State) : Prop := s.poni = false ∧ (∀ pa, Config.memExists s.cfg pa = true) ∧ s.badWords = []

/-- What a physical address reaches where memory is everywhere (spec/20_memory.md R98, R99; log 56). -/
def State.physTarget (s : State) (pa : PhysAddr) : Target :=
  if bankOf pa = 0 && inTableRange s.cfg.ptMode (offsetOf pa) then .ptab (tableIndex (offsetOf pa)) else .mem pa

/-- The word at a physical address. -/
def State.physWord (s : State) (pa : PhysAddr) : Word := s.wordAt (s.physTarget pa)

/-- The word at a virtual address with paging off (R97). -/
def State.word (s : State) (a : Word) : Word := s.physWord (physAddr 0 a)

/-- The target of a virtual address with paging off. -/
def State.wordTarget (s : State) (a : Word) : Target := s.physTarget (physAddr 0 a)

/-- A byte with paging off. -/
def State.byte (s : State) (p : BytePlace) : Byte := byteOf p.odd (s.word p.addr)

/-- The bytes of a decimal operand with paging off. -/
def State.decimalBytes (s : State) (f : DecimalField) (n : Nat) : List Byte := (f.places n).map s.byte

/-- The number in a BCD operand with paging off. -/
def State.bcd (s : State) (f : DecimalField) : Option DecimalNumber :=
  decodeBcd (nibbles (s.decimalBytes f (f.length / 2)))

/-- What the readings of an ASCII operand are, with paging off. -/
def State.ascii (s : State) (f : DecimalField) : List (Option (Bool × List Nat)) :=
  readAsciiBytes (asciiForm f.ascii) f.length 0 (s.decimalBytes f f.length)

/-- The targets of a field of `n` bytes. -/
def State.fieldTargets (s : State) (f : DecimalField) (n : Nat) : List Target :=
  (f.places n).map fun p => s.wordTarget p.addr

end Sys2Proof.Machine
end

