-- ==== Sys2Proof/Certificates/Slice0/Obligations.lean ====
section
/-! DEFINITION. The statements for the provers. Where a statement names a target, the target is what the accesses of the
instruction resolve to, computed with the functions the meaning uses. -/

open Sys2Proof Sys2Proof.Machine

/-! ### Encoding -/

/-- Decoding the word of a well-formed instruction gives the instruction (spec/30_encoding.md R131 to R147). -/
def Obligations.DecodeOfEncode : Prop := ∀ i : Instr, i.wellFormed = true → decodeWord (encode i) = .ok i

/-- A word that decodes is the word of the instruction it decodes to, which is well-formed: one reading for each word
(spec/30_encoding.md R147, R160). That a field the source does not describe is zero is the spec's own choice D9 (R162; log
42); codes from general knowledge: log 40. -/
def Obligations.EncodeOfDecode : Prop :=
  ∀ (w : Word) (i : Instr), decodeWord w = .ok i → i.wellFormed = true ∧ encode i = w

/-- Words printed in the spec decode to the instructions they stand for: LDA (R202), JPL (R267), EXIT (R181), RSUB (R184),
SHA SHR 3 (R251, R256), BSET ONE (R303), IRR (R372), TRA ALD (R379), INSPL (R430), EXR (R187); 0o140601 is no instruction,
by the spec's own choice D9 (R160, R162; log 42). -/
def Obligations.PrintedWords : Prop :=
  decodeWord 0o044774 = .ok (.lda { x := false, i := false, b := true, disp := 0o374 })
    ∧ decodeWord 0o135403 = .ok (.jpl { x := false, i := true, b := true, disp := 3 })
    ∧ decodeWord 0o146142 = .ok .exit
    ∧ decodeWord 0o146663 = .ok (.rsub (some .t) (some .b))
    ∧ decodeWord 0o154475 = .ok (.sha .arith 0o75)
    ∧ decodeWord 0o174375 = .ok (.bsetOne 15 (.reg .a))
    ∧ decodeWord 0o153762 = .ok (.irr 14 (.reg .p))
    ∧ decodeWord 0o150012 = .ok (.tra 0o12)
    ∧ decodeWord 0o140502 = .ok .inspl
    ∧ decodeWord 0o140600 = .ok (.exr none)
    ∧ decodeWord 0o140601 = .error (.undefinedWord 0o140601)

/-! ### The machine -/

/-- Power-up: PID, PIE and the level are 0, interrupt system and paging are off, IIC, IIE, PVL and every PCR are 0
(spec/70_reset_and_hazards.md R520, spec/10_state.md R52). The spec's own choice D7 for what its source leaves out. That
every address outside the page-table range holds memory is the model's choice of the installation at reset, a parameter of
the spec (D1; log 5). -/
def Obligations.ResetValues : Prop :=
  State.reset.pid = 0 ∧ State.reset.pie = 0 ∧ State.reset.pil = 0 ∧ State.reset.ioni = false
    ∧ State.reset.poni = false ∧ State.reset.sexi = false ∧ State.reset.iic = 0 ∧ State.reset.iie = 0
    ∧ State.reset.pvl = 0 ∧ (∀ l : Level, State.reset.pcr[l.toNat]'l.isLt = { pt := 0, apt := 0, ring := 0 })
    ∧ State.reset.stsWord.getLsbD 12 = true
    ∧ (∀ kind tbl va, inTableRange State.reset.cfg.ptMode va = false →
        resolve kind tbl va State.reset = .ok (.mem (physAddr 0 va)) State.reset)

/-- The machine after reset satisfies the invariant. -/
def Obligations.ResetInv : Prop := State.reset.Inv

/-- Every step keeps the invariant: memory and page tables canonical, the running level is the one that level selection
gives (R471), the PID bits of requesting devices are 1 (R488). The model's choices: that a level is left without WAIT when
its own request is gone is from general knowledge (log 53), and that a write to PID leaves the bit of a requesting device at
1 is log 13. -/
def Obligations.StepKeepsInv : Prop := ∀ s t : State, s.Inv → step s = .next t → t.Inv

/-- A running machine whose fetched word decodes to an instruction executes that instruction, after level selection and with
no other effect than the fetch's (R471, R96); a word that does not decode raises code 4, by the spec's own choice D9 (R160,
R480; log 42). The memory accesses of a fetch with missing or failing memory: logs 20 and 54. -/
def Obligations.StepRunsDecoded : Prop :=
  ∀ (s u : State) (w : Word), s.run = .running → fetchWord s.selectLevel.pc s.selectLevel = .ok w u →
    s.selectLevel.Accessed u
      ∧ (∀ i, decodeWord w = .ok i → step s = exec i u)
      ∧ (∀ e, decodeWord w = .error e → step s = raiseAbort 4 u)

/-- A fetch that paging or memory refuses ends the step (R478, R479, R483, R484); a stopped machine and one in the
operator's hands execute nothing (R499, R500). The model's choice: log 11. -/
def Obligations.StepStops : Prop :=
  (∀ (s : State) (o : Out), s.run = .running → fetchWord s.selectLevel.pc s.selectLevel = .stop o → step s = o)
    ∧ (∀ s : State, (s.run = .stopped → step s = .fault .stopped) ∧ (s.run = .opcom → step s = .fault .operatorHasControl))

/-- Level selection (R471, R472): with the interrupt system on the level becomes the highest with its PID and PIE bits
set, or 0; PVL receives a level that is left; no register of any level and no word of memory changes. That the level drops
without WAIT when its own request is gone is from general knowledge (log 53); PVL at every change is the spec's own choice
D45. -/
def Obligations.LevelSelection : Prop :=
  ∀ s : State,
    (s.ioni = false → s.selectLevel = s)
      ∧ (s.ioni = true →
          (∀ n : Level, (s.pid &&& s.pie).getLsbD n.toNat = true →
            n ≤ s.selectLevel.pil ∧ (s.pid &&& s.pie).getLsbD s.selectLevel.pil.toNat = true)
          ∧ (s.pid &&& s.pie = 0 → s.selectLevel.pil = 0)
          ∧ (s.selectLevel.pil = s.pil → s.selectLevel = s)
          ∧ (s.selectLevel.pil ≠ s.pil → s.selectLevel = { s with pil := s.selectLevel.pil, pvl := s.pil }))

/-- Internal interrupts (R476, R477, R492, D46) on a machine that runs the level it should. A code 1, 5, 7 or 0o12 comes
after its instruction: with its IIE bit clear nothing happens; else IIC holds the code and PID bit 14 is set; level 14 is
entered if it can be, with PVL the level left, and otherwise the present level goes on. Any other code ends its instruction:
delivered, it is the entry to level 14 with every register as it was; else the model refuses (log 18). Which P is saved is
the spec's own choice D8 (R492); what cannot be delivered, D46 (log 42). -/
def Obligations.InternalInterrupts : Prop :=
  (∀ (c : BitVec 4) (s : State), s.settled →
      (s.iie.getLsbD c.toNat = false → s.raiseAfter c = s)
        ∧ (s.iie.getLsbD c.toNat = true → s.ioni = true ∧ s.pie.getLsbD 14 = true ∧ s.pil < 14 →
            s.raiseAfter c = { s with iic := c, pid := putBit s.pid 14 true, pvl := s.pil, pil := 14 })
        ∧ (s.iie.getLsbD c.toNat = true → ¬(s.ioni = true ∧ s.pie.getLsbD 14 = true ∧ s.pil < 14) →
            s.raiseAfter c = { s with iic := c, pid := putBit s.pid 14 true }))
    ∧ (∀ (c : BitVec 4) (s : State), s.settled →
      (s.iie.getLsbD c.toNat = true ∧ s.ioni = true ∧ s.pie.getLsbD 14 = true ∧ s.pil < 14 →
          ∃ t, raiseAbort c s = .next t ∧ s.Trapped c t ∧ t.ptab = s.ptab ∧ t.pgs = s.pgs ∧ t.pes = s.pes ∧ t.pea = s.pea)
        ∧ (¬(s.iie.getLsbD c.toNat = true ∧ s.ioni = true ∧ s.pie.getLsbD 14 = true ∧ s.pil < 14) →
          raiseAbort c s = .refused (.undeliverable c)))

/-- Every privileged instruction in user mode (paging on, ring 0 or 1) is not executed and raises code 6 (R370, R482).
The spec's own choice D10; for MOVEW log 30. -/
def Obligations.PrivilegedInUserMode : Prop :=
  ∀ (i : Instr) (s : State), isPrivileged i = true → s.poni = true → s.curPcr.ring < 2 →
    exec i s = raiseAbort 6 s

/-- What a program in user mode cannot change in one step, whatever it executes, EXR included (R493, R494): the PCRs and
every other special register but IIC, PVL, PGS, PES, PEA and PID bit 14, which an internal interrupt writes; the registers
of other levels but T of level 14, which MON writes; the page tables but PGU and WIP; the devices; and it leaves its level
for no other level than 14. The model's choices: that MOVEW to and from physical memory is privileged is log 30, that only
ring 3 reaches the page tables with paging on is log 15, both from general knowledge. That a privileged instruction in user
mode does nothing but raise code 6 is the spec's own choice D10 (log 42). -/
def Obligations.UserModeIsolation : Prop :=
  ∀ s t : State, s.Inv → s.userMode = true → step s = .next t →
    (t.pcr = s.pcr ∧ t.pie = s.pie ∧ t.iie = s.iie ∧ t.ioni = s.ioni ∧ t.poni = s.poni ∧ t.sexi = s.sexi
        ∧ t.run = s.run ∧ t.eccr = s.eccr ∧ t.cs = s.cs ∧ t.stbnk = s.stbnk ∧ t.stsrt = s.stsrt ∧ t.cmbnk = s.cmbnk
        ∧ t.opr = s.opr ∧ t.lmp = s.lmp ∧ t.panel = s.panel ∧ t.ioHistory = s.ioHistory ∧ t.req10 = s.req10
        ∧ t.req11 = s.req11 ∧ t.req12 = s.req12 ∧ t.req13 = s.req13 ∧ t.badWords = s.badWords ∧ t.cfg = s.cfg)
      ∧ (t.pid = s.pid ∨ t.pid = putBit s.pid 14 true)
      ∧ (t.pil = s.pil ∨ t.pil = 14)
      ∧ (∀ l, l ≠ s.pil → ∀ r, (l ≠ 14 ∨ r ≠ .t) → (t.level l).get r = (s.level l).get r)
      ∧ (∀ l, l ≠ s.pil → (t.level l).sts = (s.level l).sts)
      ∧ s.pageBitsOnly t

/-! ### Addresses and translation -/

/-- The effective address and its table in the eight modes (spec/20_memory.md R90, R93): one level of indirection, P is the
instruction's own address, no mode changes B, X or P. The spec's own choice D11: sums wrap. That PTM = 0 means PT throughout
is the spec's inference in R93. -/
def Obligations.EffectiveAddress : Prop :=
  ∀ (m : MemOperand) (s u : State) (p : Place), effAddr m s = .ok p u →
    s.Accessed u
      ∧ (m.i = false → u = s ∧
          p.addr = (match m.x, m.b with
            | false, false => s.reg .p + m.disp.signExtend 16
            | false, true => s.reg .b + m.disp.signExtend 16
            | true, false => s.reg .x + m.disp.signExtend 16
            | true, true => s.reg .b + s.reg .x + m.disp.signExtend 16)
          ∧ p.tbl = if (m.b || m.x) && s.flag .ptm then .apt else .pt)
      ∧ (m.i = true →
          (∃ ptr, readVirt (if m.b && s.flag .ptm then .apt else .pt)
              ((if m.b then s.reg .b else s.reg .p) + m.disp.signExtend 16) s = .ok ptr u
            ∧ p.addr = ptr + (if m.x then s.reg .x else 0))
          ∧ p.tbl = if s.flag .ptm then .apt else .pt)

/-- With paging off an address is the physical address in bank 0; the page tables are reached in their range; absent memory
raises code 0o11, an access that the memory system fails code 0o10, or, where the error is not reported, it is an access
without effect (R97, R99, R105, R476, R483, R484). A memory error latches the physical address in PES bits 7-0 and PEA, and
whether it was a fetch, unless an earlier one is unread; a parity error latches FAT and the error code too (R43). The
model's choices: logs 17, 20, 47 and 54, and log 56, the page-table range with four tables. The spec's own choices D1 (absent
memory) and D46 (an error that is not reported; log 42). -/
def Obligations.PagingOff : Prop :=
  (∀ (kind : AccessKind) (tbl : Table) (a : Word) (s : State), s.poni = false →
      resolve kind tbl a s =
        if (s.cfg.ptMode = .sixteen ∧ 0o174000 ≤ a.toNat) ∨ (s.cfg.ptMode = .four ∧ 0o177000 ≤ a.toNat) then
          .ok (.ptab (BitVec.ofNat 11 (a.toNat - 0o174000))) s
        else if ∃ r ∈ s.cfg.memMap, r.base ≤ a.toNat ∧ a.toNat < r.base + r.size then
          match s.badWords.find? (fun w => w.addr.toNat = a.toNat ∧ w.kind = kind) with
          | none => .ok (.mem (BitVec.ofNat 24 a.toNat)) s
          | some w =>
            if s.iie.getLsbD 8 = true ∧ s.eccr.getLsbD 3 = false then
              .stop (raiseAbort 0o10 (s.latchError (kind == .fetch) false w.fatal w.code (BitVec.ofNat 24 a.toNat)))
            else .ok .absent s
        else if s.iie.getLsbD 9 = true then .stop (raiseAbort 0o11 (s.latchMemoryError kind (BitVec.ofNat 24 a.toNat)))
        else .ok .absent s)
    ∧ (∀ (kind : AccessKind) (pa : PhysAddr) (s : State),
      (s.peLocked = true → s.latchMemoryError kind pa = s)
        ∧ (s.peLocked = false →
            ∃ w k, s.latchMemoryError kind pa = { s with pes := w, pea := pa.extractLsb' 0 16, peLocked := true, free := k }
              ∧ w.extractLsb' 0 8 = pa.extractLsb' 16 8 ∧ w.getLsbD 15 = (kind == .fetch) ∧ w.getLsbD 14 = false))
    ∧ (∀ (fch dma fat : Bool) (code : BitVec 5) (pa : PhysAddr) (s : State),
      (s.peLocked = true → s.latchError fch dma fat code pa = s)
        ∧ (s.peLocked = false →
            ∃ w, s.latchError fch dma fat code pa = { s with pes := w, pea := pa.extractLsb' 0 16, peLocked := true }
              ∧ w.extractLsb' 0 8 = pa.extractLsb' 16 8 ∧ w.extractLsb' 8 5 = code ∧ w.getLsbD 13 = fat
              ∧ w.getLsbD 14 = dma ∧ w.getLsbD 15 = fch))

/-- Page translation with paging on. The reference rules (R102), in extended and in normal mode: page fault, permit
violation, ring violation, else the page, of word 1 or in normal mode the nine bits of word 0, with PGU set and on a write
WIP set; PGS tells the fault (R36, R478, R479). Under any rules the contract of R101: the offset stays, in normal mode the
address has 19 bits (R84), nothing but PGU and WIP of the entry changes, a refusal is code 3 or 2 with PGS, and the address
depends on the entry, the access, the ring and the mode alone. R102 is from general knowledge, for a parameter of the spec
(D3; log 14), and so is the layout in normal mode (R100); ring 3 reaches the page tables: log 15; the
range with four tables: log 56. -/
def Obligations.ReferenceTranslation : Prop :=
  ∀ (kind : AccessKind) (tbl : Table) (a : Word) (s : State),
    s.poni = true →
    ¬(s.curPcr.ring = 3 ∧ (match s.cfg.ptMode with
        | .sixteen => 0o174000 ≤ a.toNat
        | .four => 0o177000 ≤ a.toNat)) →
    let number : BitVec 4 := match tbl with
      | .pt => s.curPcr.pt
      | .apt => s.curPcr.apt
    let t : BitVec 4 := match s.cfg.ptMode with
      | .sixteen => number
      | .four => number &&& 3
    let e : Nat := (match s.cfg.ptMode with
      | .sixteen => 0
      | .four => 0o3000) + 2 * (64 * t.toNat + a.toNat / 1024)
    let w0 := Memory.word s.ptab e
    let page : BitVec 14 :=
      if s.sexi then (Memory.word s.ptab (e + 1)).extractLsb' 0 14 else (w0.extractLsb' 0 9).setWidth 14
    let pa : PhysAddr := page ++ a.extractLsb' 0 10
    let fault (pm : Bool) : State := { s with pgs := { ff := kind == .fetch, pm := pm, pt := t, vpn := a.extractLsb' 10 6 } }
    let need : Nat := match kind with
      | .write => 15
      | .read => 14
      | .fetch => 13
    let mark : Word := match kind with
      | .write => 0o14000
      | _ => 0o4000
    let u : State := { s with ptab := Memory.setWord s.ptab e (w0 ||| mark) }
    (s.cfg.pageRules = .reference →
        resolve kind tbl a s =
          if w0.extractLsb' 13 3 = 0 then .stop (raiseAbort 3 (fault false))
          else if w0.getLsbD need = false then .stop (raiseAbort 2 (fault true))
          else if s.curPcr.ring < w0.extractLsb' 9 2 then .stop (raiseAbort 2 (fault false))
          else resolveMemory kind pa u)
      ∧ (resolve kind tbl a s = .stop (raiseAbort 3 (fault false))
        ∨ (∃ pm, resolve kind tbl a s = .stop (raiseAbort 2 (fault pm)))
        ∨ ∃ pa v, Machine.translate kind tbl a s = .ok pa v ∧ resolve kind tbl a s = resolveMemory kind pa v
          ∧ pa.extractLsb' 0 10 = a.extractLsb' 0 10 ∧ (s.sexi = false → pa.toNat < 2 ^ 19)
          ∧ ∃ pgu wip : Bool,
            let marks : Word := (if pgu then 0o4000 else 0) ||| (if wip then 0o10000 else 0)
            v = { s with ptab := Memory.setWord s.ptab e (w0 ||| marks) })
      ∧ (∀ (tbl' : Table) (r : State), r.cfg.pageRules = s.cfg.pageRules → r.curPcr.ring = s.curPcr.ring → r.sexi = s.sexi →
        (let e' := entryNumber r.cfg.ptMode (r.tableNumber tbl') (pageOf a)
         r.entryWord0 e' = w0 ∧ r.entryWord1 e' = Memory.word s.ptab (e + 1)) →
        ∀ pa v, Machine.translate kind tbl a s = .ok pa v → ∃ v', Machine.translate kind tbl' a r = .ok pa v')

/-- Reading back what was written: a word stored at a target is what the target holds, and every other target keeps its
word (R96). -/
def Obligations.ReadAfterWrite : Prop :=
  ∀ (g h : Target) (v : Word) (s : State), s.memoryWf → g ≠ .absent →
    (store g v s).memoryWf ∧ (store g v s).wordAt g = v ∧ (h ≠ g → (store g v s).wordAt h = s.wordAt h)

/-! ### Memory transfers -/

/-- LDA, with its encoding, LDT and LDX: the register receives the word that the operand accesses read, and nothing else
changes; an access that is refused ends the instruction (R202; spec/41_memory_transfer.md). -/
def Obligations.LoadRegisters : Prop :=
  ∀ (m : MemOperand) (s : State), s.memoryWf →
    encode (.lda m) = encodeMem 0o044000 m
      ∧ ∀ p ∈ [(Instr.lda m, Reg.a), (.ldt m, .t), (.ldx m, .x)],
        (∀ v, s.reads m v →
          ∃ t, exec p.1 s = .next t ∧ t.reg p.2 = v ∧ t.reg .p = s.reg .p + 1 ∧ s.Frame [p.2, .p] [] [] t)
        ∧ (∀ o, readOperand m s = .stop o → exec p.1 s = o)

/-- LDD, LDF, STD, STF (R201, R203, R204, R209, R210): the words at ea, ea + 1 (and with the 48-bit format ea + 2), the most
significant first; all are checked before the first is stored. That all are checked first, so that a refused access leaves
every register and word (R492), is the spec's own choice D20 (logs 42 and 44); addresses wrap by D11. -/
def Obligations.DoubleWords : Prop :=
  (∀ (m : MemOperand) (s u : State) (p : Place), s.memoryWf → effAddr m s = .ok p u →
      (∀ v w x, readTwo p.tbl p.addr u = .ok (v, w) x → ∀ i ∈ [Instr.ldd m] ++ (if s.cfg.fp48 then [] else [.ldf m]),
          ∃ t, exec i s = .next t ∧ t.reg .a = v ∧ t.reg .d = w ∧ t.reg .p = s.reg .p + 1 ∧ s.Frame [.a, .d, .p] [] [] t)
        ∧ (s.cfg.fp48 = true → ∀ v w z x, readThree p.tbl p.addr u = .ok (v, w, z) x →
          ∃ t, exec (.ldf m) s = .next t ∧ t.reg .t = v ∧ t.reg .a = w ∧ t.reg .d = z ∧ t.reg .p = s.reg .p + 1
            ∧ s.Frame [.t, .a, .d, .p] [] [] t))
    ∧ (∀ (m : MemOperand) (s : State),
      (∀ i ∈ [Instr.ldd m] ++ (if s.cfg.fp48 then [] else [.ldf m]),
          ((effAddr m s).bind fun p u => readTwo p.tbl p.addr u).Ends i s)
        ∧ (s.cfg.fp48 = true → ((effAddr m s).bind fun p u => readThree p.tbl p.addr u).Ends (.ldf m) s)
        ∧ (∀ i ∈ [Instr.std m] ++ (if s.cfg.fp48 then [] else [.stf m]),
          ((effAddr m s).bind fun p u => resolve2 .write p.tbl p.addr (p.addr + 1) u).Ends i s)
        ∧ (s.cfg.fp48 = true →
          ((effAddr m s).bind fun p u => (resolve2 .write p.tbl p.addr (p.addr + 1) u).bind fun _ w =>
            resolve .write p.tbl (p.addr + 2) w).Ends (.stf m) s))
    ∧ (∀ (m : MemOperand) (s u w : State) (p : Place) (g h : Target), s.memoryWf → effAddr m s = .ok p u →
      resolve2 .write p.tbl p.addr (p.addr + 1) u = .ok (g, h) w →
      (∀ i ∈ [Instr.std m] ++ (if s.cfg.fp48 then [] else [.stf m]),
          ∃ t, exec i s = .next t ∧ (g ≠ .absent → t.wordAt g = s.reg .a) ∧ (h ≠ .absent → t.wordAt h = s.reg .d)
            ∧ t.reg .p = s.reg .p + 1 ∧ s.Frame [.p] [] [g, h] t)
        ∧ (s.cfg.fp48 = true → ∀ k x, resolve .write p.tbl (p.addr + 2) w = .ok k x →
          ∃ t, exec (.stf m) s = .next t ∧ (g ≠ .absent → t.wordAt g = s.reg .t) ∧ (h ≠ .absent → t.wordAt h = s.reg .a)
            ∧ (k ≠ .absent → t.wordAt k = s.reg .d) ∧ t.reg .p = s.reg .p + 1 ∧ s.Frame [.p] [] [g, h, k] t))

/-- STA and STX, with their encodings, STT and STZ: one word is stored at the effective address, and nothing else changes;
an access that is refused ends the instruction (R208, R212; spec/41_memory_transfer.md). -/
def Obligations.StoreRegisters : Prop :=
  ∀ (m : MemOperand) (s : State), s.memoryWf →
    encode (.sta m) = encodeMem 0o004000 m ∧ encode (.stx m) = encodeMem 0o014000 m
      ∧ ∀ p ∈ [(Instr.sta m, s.reg .a), (.stt m, s.reg .t), (.stx m, s.reg .x), (.stz m, 0)],
        (∀ g, s.writes m g →
          ∃ t, exec p.1 s = .next t ∧ (g ≠ .absent → t.wordAt g = p.2) ∧ t.reg .p = s.reg .p + 1 ∧ s.Frame [.p] [] [g] t)
        ∧ (∀ o, effAddr m s = .stop o → exec p.1 s = o)
        ∧ (∀ q u o, effAddr m s = .ok q u → resolve .write q.tbl q.addr u = .stop o → exec p.1 s = o)

/-- MIN counts a word up and skips if it becomes zero (R207); A receives the word at T, and TSET leaves all ones there
(R360, R361); LBIT and SBIT load and store bit A of the array at X (R443, R445, D41). The order of bits is a parameter of
the spec (D41); the table of RDUS and TSET is its own choice D30 (R93; log 42). An access that is refused ends the
instruction before it has changed a register or a word (R492; D20). -/
def Obligations.ReadModifyWrite : Prop :=
  (∀ (m : MemOperand) (s u : State) (p : Place) (v : Word) (g : Target), s.memoryWf → effAddr m s = .ok p u →
      u.modifies p.tbl p.addr v g →
      ∃ t, exec (.min m) s = .next t ∧ (g ≠ .absent → t.wordAt g = v + 1)
        ∧ t.reg .p = (if v = 0xFFFF then s.reg .p + 2 else s.reg .p + 1) ∧ s.Frame [.p] [] [g] t)
    ∧ (∀ (m : MemOperand) (s : State),
      ((effAddr m s).bind fun p u => (resolve .read p.tbl p.addr u).bind fun _ w =>
        resolve .write p.tbl p.addr w).Ends (.min m) s)
    ∧ (∀ s : State,
      let tbl : Table := if s.flag .ptm then .apt else .pt
      let both (a : Word) : Res Target := (resolve .read tbl a s).bind fun _ u => resolve .write tbl a u
      let a := s.reg .x + (s.reg .a >>> 4)
      (readVirt tbl (s.reg .t) s).Ends .rdus s ∧ (both (s.reg .t)).Ends .tset s
        ∧ (s.userMode = false → (readVirt tbl a s).Ends .lbit s ∧ (both a).Ends .sbit s))
    ∧ (∀ s : State, s.memoryWf →
      let tbl : Table := if s.flag .ptm then .apt else .pt
      (∀ v u, readVirt tbl (s.reg .t) s = .ok v u →
          ∃ t, exec .rdus s = .next t ∧ t.reg .a = v ∧ t.reg .p = s.reg .p + 1 ∧ s.Frame [.a, .p] [] [] t)
        ∧ (∀ v g, s.modifies tbl (s.reg .t) v g →
          ∃ t, exec .tset s = .next t ∧ t.reg .a = v ∧ (g ≠ .absent → t.wordAt g = 0xFFFF) ∧ t.reg .p = s.reg .p + 1
            ∧ s.Frame [.a, .p] [] [g] t))
    ∧ (∀ s : State, s.memoryWf → s.userMode = false →
      let tbl : Table := if s.flag .ptm then .apt else .pt
      let a := s.reg .x + (s.reg .a >>> 4)
      let bitNumber := match s.cfg.bitIndex with
        | .fromBit0 => (s.reg .a).toNat % 16
        | .fromBit15 => 15 - (s.reg .a).toNat % 16
      (∀ v u, readVirt tbl a s = .ok v u →
          ∃ t, exec .lbit s = .next t ∧ t.flag .k = v.getLsbD bitNumber ∧ t.reg .p = s.reg .p + 1 ∧ s.Frame [.p] [.k] [] t)
        ∧ (∀ v g, s.modifies tbl a v g →
          ∃ t, exec .sbit s = .next t ∧ (g ≠ .absent → t.wordAt g = putBit v bitNumber (s.flag .k))
            ∧ t.reg .p = s.reg .p + 1 ∧ s.Frame [.p] [] [g] t))

/-- ADD, SUB, MPY, AND, ORA (R214 to R218): C is the carry out (for SUB: no borrow), Q the signed overflow (for MPY: an
absolute value above 32767), O is set with Q and never cleared; MPY does not write C. That MPY keeps the low 16 bits after
an overflow and clears Q without one is the spec's own choice D18 (R216; log 42). An access that is refused ends the
instruction before it has changed a register or a word (R492; D20). -/
def Obligations.Accumulate : Prop :=
  (∀ (m : MemOperand) (s : State) (v : Word), s.memoryWf → s.reads m v →
      (∃ t, exec (.add m) s = .next t ∧ t.reg .a = s.reg .a + v
          ∧ t.flag .c = decide (65536 ≤ (s.reg .a).toNat + v.toNat)
          ∧ t.flag .q = outOfWord ((s.reg .a).toInt + v.toInt) ∧ t.flag .o = (s.flag .o || t.flag .q)
          ∧ t.reg .p = s.reg .p + 1 ∧ s.Frame [.a, .p] [.c, .q, .o] [] t)
        ∧ (∃ t, exec (.sub m) s = .next t ∧ t.reg .a = s.reg .a - v
          ∧ t.flag .c = decide (v.toNat ≤ (s.reg .a).toNat)
          ∧ t.flag .q = outOfWord ((s.reg .a).toInt - v.toInt) ∧ t.flag .o = (s.flag .o || t.flag .q)
          ∧ t.reg .p = s.reg .p + 1 ∧ s.Frame [.a, .p] [.c, .q, .o] [] t))
    ∧ (∀ (m : MemOperand) (s : State) (v : Word), s.memoryWf → s.reads m v →
      (∃ t, exec (.mpy m) s = .next t ∧ t.reg .a = s.reg .a * v
          ∧ t.flag .q = decide (32767 < ((s.reg .a).toInt * v.toInt).natAbs) ∧ t.flag .o = (s.flag .o || t.flag .q)
          ∧ t.reg .p = s.reg .p + 1 ∧ s.Frame [.a, .p] [.q, .o] [] t)
        ∧ (∃ t, exec (.and m) s = .next t ∧ t.reg .a = s.reg .a &&& v ∧ t.reg .p = s.reg .p + 1
          ∧ s.Frame [.a, .p] [] [] t)
        ∧ (∃ t, exec (.ora m) s = .next t ∧ t.reg .a = s.reg .a ||| v ∧ t.reg .p = s.reg .p + 1
          ∧ s.Frame [.a, .p] [] [] t))
    ∧ (∀ (m : MemOperand) (s : State), ∀ i ∈ [Instr.add m, .sub m, .mpy m, .and m, .ora m], (readOperand m s).Ends i s)

/-! ### Floating point -/

/-- The number of a floating word that is zero or normalised (R230, R231); a 32-bit word stands in bits 31-0. -/
def Sys2Proof.floatValue (fp48 : Bool) (w : BitVec 48) : Option ℚ :=
  let sign (b : Bool) : ℚ := if b then -1 else 1
  if w = 0 then some 0
  else if fp48 then
    if w.getLsbD 31 then
      some (sign (w.getLsbD 47) * ((w.extractLsb' 0 32).toNat : ℚ) / 2 ^ 32
        * 2 ^ (((w.extractLsb' 32 15).toNat : ℤ) - 16384))
    else none
  else if w.extractLsb' 22 9 = 0 then none
  else
    some (sign (w.getLsbD 31) * ((2 ^ 22 + (w.extractLsb' 0 22).toNat : ℕ) : ℚ) / 2 ^ 23
      * 2 ^ (((w.extractLsb' 22 9).toNat : ℤ) - 256))

/-- The integer part of a number, toward zero. -/
def Sys2Proof.integerPart (v : ℚ) : ℤ := if 0 ≤ v then ⌊v⌋ else ⌈v⌉

/-- The registers of the floating accumulator (R232). -/
def Sys2Proof.floatRegs (fp48 : Bool) : List Reg := if fp48 then [.t, .a, .d] else [.a, .d]

/-- FAD, FSB, FMU, FDV where R233 (a) fixes the result: both operands zero or normalised and the exact result a number of
the format; R233 (b) and R237: division by the zero word sets Z and raises code 5. They go on whatever the operands are,
with the accumulator alone (for FDV on an error also Z) written (log 23). That Z is set and not cleared, and raises code 5
at the end of the instruction, is by the spec's own choices D14 and D47; the exact result by D6 (log 42). An access that is
refused ends the instruction before it has changed a register or a word (R492; D20). -/
def Obligations.FloatArithmetic : Prop :=
  (∀ (m : MemOperand) (s u : State) (w r : BitVec 48) (x y : ℚ), s.memoryWf → readFloat m s = .ok w u →
      floatValue s.cfg.fp48 s.accumulator = some x → floatValue s.cfg.fp48 w = some y →
      (s.cfg.fp48 = false → r.extractLsb' 32 16 = 0) →
      (∀ p ∈ [(Instr.fad m, x + y), (.fsb m, x - y), (.fmu m, x * y)] ++ (if y = 0 then [] else [(.fdv m, x / y)]),
          floatValue s.cfg.fp48 r = some p.2 →
          ∃ t, exec p.1 s = .next t ∧ t.accumulator = r ∧ t.reg .p = s.reg .p + 1
            ∧ s.Frame (.p :: floatRegs s.cfg.fp48) [] [] t)
        ∧ (w = 0 → ∃ t, exec (.fdv m) s = .next (t.raiseAfter 5) ∧ t.flag .z = true ∧ t.reg .p = s.reg .p + 1
            ∧ s.Frame (.p :: floatRegs s.cfg.fp48) [.z] [] t))
    ∧ (∀ (m : MemOperand) (s u : State) (w : BitVec 48), s.memoryWf → readFloat m s = .ok w u →
      (∀ i ∈ [Instr.fad m, .fsb m, .fmu m],
          ∃ t, exec i s = .next t ∧ t.reg .p = s.reg .p + 1 ∧ s.Frame (.p :: floatRegs s.cfg.fp48) [] [] t)
        ∧ (∃ t, t.reg .p = s.reg .p + 1
            ∧ ((exec (.fdv m) s = .next t ∧ s.Frame (.p :: floatRegs s.cfg.fp48) [] [] t)
              ∨ (exec (.fdv m) s = .next (t.raiseAfter 5) ∧ t.flag .z = true
                ∧ s.Frame (.p :: floatRegs s.cfg.fp48) [.z] [] t))))
    ∧ (∀ (m : MemOperand) (s : State), ∀ i ∈ [Instr.fad m, .fsb m, .fmu m, .fdv m], (readFloat m s).Ends i s)

/-- NLZ (R238, R239): the accumulator holds exactly `a * 2^(sc - 16)`, zero as zero bits, else normalised. DNZ (R241): with
scaling -16 the integer part, toward zero, in A and zero in D; an absolute value above 32767 sets Z and raises code 5; with
another scaling, or a word that is not normalised, it goes on all the same (log 24). Truncation toward zero is the spec's
own choice D21, code 5 D47 (log 42). -/
def Obligations.FloatConversions : Prop :=
  (∀ (sc : BitVec 8) (s : State), s.memoryWf →
      ∃ t, exec (.nlz sc) s = .next t
        ∧ floatValue s.cfg.fp48 t.accumulator = some (((s.reg .a).toInt : ℚ) * 2 ^ (sc.toInt - 16))
        ∧ t.reg .p = s.reg .p + 1 ∧ s.Frame (.p :: floatRegs s.cfg.fp48) [] [] t)
    ∧ (∀ (sc : BitVec 8) (s : State), s.memoryWf →
      (∀ v, sc = 0xF0 → floatValue s.cfg.fp48 s.accumulator = some v →
          ((integerPart v).natAbs ≤ 32767 →
            ∃ t, exec (.dnz sc) s = .next t ∧ (t.reg .a).toInt = integerPart v ∧ t.reg .d = 0
              ∧ t.reg .p = s.reg .p + 1 ∧ s.Frame (.p :: floatRegs s.cfg.fp48) [] [] t)
          ∧ (32767 < (integerPart v).natAbs →
            ∃ t, exec (.dnz sc) s = .next (t.raiseAfter 5) ∧ t.flag .z = true ∧ t.reg .d = 0
              ∧ t.reg .p = s.reg .p + 1 ∧ s.Frame (.p :: floatRegs s.cfg.fp48) [.z] [] t))
        ∧ (∃ t, t.reg .d = 0 ∧ t.reg .p = s.reg .p + 1
            ∧ ((exec (.dnz sc) s = .next t ∧ s.Frame (.p :: floatRegs s.cfg.fp48) [] [] t)
              ∨ (exec (.dnz sc) s = .next (t.raiseAfter 5) ∧ t.flag .z = true
                ∧ s.Frame (.p :: floatRegs s.cfg.fp48) [.z] [] t))))

/-! ### Jumps and skips -/

/-- JMP and JPL (R266, R267): P receives the effective address, with JPL L the address of the next word. JAP, JAN, JAZ, JAF,
JXZ, JXN; JPC and JNC, which count X up first (R268 to R276). With their encodings; the code of JMP is from general knowledge
(log 40). -/
def Obligations.JumpInstructions : Prop :=
  (∀ (m : MemOperand) (s : State), s.memoryWf →
      encode (.jmp m) = encodeMem 0o124000 m ∧ encode (.jpl m) = encodeMem 0o134000 m
        ∧ (∀ p u, effAddr m s = .ok p u →
            (∃ t, exec (.jmp m) s = .next t ∧ t.reg .p = p.addr ∧ s.Frame [.p] [] [] t)
              ∧ (∃ t, exec (.jpl m) s = .next t ∧ t.reg .p = p.addr ∧ t.reg .l = s.reg .p + 1 ∧ s.Frame [.l, .p] [] [] t))
        ∧ (∀ o, effAddr m s = .stop o → exec (.jmp m) s = o ∧ exec (.jpl m) s = o))
    ∧ (∀ (d : BitVec 8) (s : State),
      (∀ p ∈ [(Instr.jap d, 0o130000#16, decide (0 ≤ (s.reg .a).toInt)), (.jan d, 0o130400, decide ((s.reg .a).toInt < 0)),
          (.jaz d, 0o131000, decide (s.reg .a = 0)), (.jaf d, 0o131400, decide (s.reg .a ≠ 0)),
          (.jxz d, 0o133000, decide (s.reg .x = 0)), (.jxn d, 0o133400, decide ((s.reg .x).toInt < 0))],
        encode p.1 = p.2.1 + d.setWidth 16
          ∧ ∃ t, exec p.1 s = .next t ∧ t.reg .p = (if p.2.2 then s.reg .p + d.signExtend 16 else s.reg .p + 1)
            ∧ s.Frame [.p] [] [] t)
        ∧ (∀ p ∈ [(Instr.jpc d, 0o132000#16, decide (0 ≤ (s.reg .x + 1).toInt)),
            (.jnc d, 0o132400, decide ((s.reg .x + 1).toInt < 0))],
          encode p.1 = p.2.1 + d.setWidth 16
            ∧ ∃ t, exec p.1 s = .next t ∧ t.reg .x = s.reg .x + 1
              ∧ t.reg .p = (if p.2.2 then s.reg .p + d.signExtend 16 else s.reg .p + 1) ∧ s.Frame [.x, .p] [] [] t))

/-- SKP (R279 to R282): the condition is the relation of its name on the operands, in the order of the installation, and one
word is skipped if it holds; no register is written. That no flag is written is the spec's own choice D24 (R280; log 42),
against a source sentence that four flags are affected. The order is a parameter of the spec (D25). -/
def Obligations.Skip : Prop :=
  ∀ (c : SkpCond) (sr dr : Option Reg) (s : State),
    ∃ t, exec (.skp c sr dr) s = .next t
      ∧ t.reg .p = (if (match s.cfg.skpOrder with
            | .drMinusSr => skpRelation c (s.operandOf dr) (s.operandOf sr)
            | .srMinusDr => skpRelation c (s.operandOf sr) (s.operandOf dr)) then s.reg .p + 2 else s.reg .p + 1)
      ∧ s.Frame [.p] [] [] t

/-- MON (R277, R487): the sign-extended number goes to T of level 14, then code 1 is raised; the caller's P is the next
address. The spec's own choices D8 and D23 (log 42). -/
def Obligations.MonitorCall : Prop :=
  ∀ (n : BitVec 8) (s : State),
    encode (.mon n) = 0o153000 + n.setWidth 16
      ∧ ∃ t : State, exec (.mon n) s = .next (t.raiseAfter 1) ∧ (t.level 14).t = n.signExtend 16
        ∧ t.reg .p = s.reg .p + 1 ∧ (∀ l, l ≠ 14 → l ≠ s.pil → t.level l = s.level l)
        ∧ (∀ r, r ≠ .p → (s.pil ≠ 14 ∨ r ≠ .t) → t.reg r = s.reg r) ∧ (∀ l, (t.level l).sts = (s.level l).sts)
        ∧ (s.pil ≠ 14 → ∀ r, r ≠ .t → (t.level 14).get r = (s.level 14).get r) ∧ { t with levels := s.levels } = s

/-! ### Register operations -/

/-- RAND, REXO, RORA (R170, R172, R175 to R177): a logical operation, complemented source with CM1, zero for the destination
with CLD; code 0 writes nothing, a result in P is a jump; no flag is written. SWAP (R174): the destination takes the source,
the source the destination, or zero with CLD; SWAP CLD of a register with itself leaves the source operand or zero (log 21);
SWAP CM1 of a register with itself leaves the complement, DEDUCED from R174's sentence against its pseudocode (log 21). -/
def Obligations.RegisterMoves : Prop :=
  (∀ (cm1 cld : Bool) (sr dr : Option Reg) (s : State),
      let x := if cld then 0 else s.operandOf dr
      let y := if cm1 then ~~~(s.operandOf sr) else s.operandOf sr
      ∀ p ∈ [(Instr.rand cm1 cld sr dr, x &&& y), (.rexo cm1 cld sr dr, x ^^^ y), (.rora cm1 cld sr dr, x ||| y)],
        ∃ t, exec p.1 s = .next t ∧ s.Lands t dr p.2 ∧ s.Frame (.p :: dr.toList) [] [] t)
    ∧ (∀ (cm1 cld : Bool) (sr dr : Option Reg) (s : State),
      let y := if cm1 then ~~~(s.operandOf sr) else s.operandOf sr
      (dr = none → exec (.swap cm1 cld sr dr) s = .next s.advance)
        ∧ (∀ dst, dr = some dst → (sr = none ∨ sr = some dst ∧ cld = false) →
            ∃ t, exec (.swap cm1 cld sr dr) s = .next t ∧ s.Lands t dr y ∧ s.Frame [.p, dst] [] [] t)
        ∧ (∀ dst, dr = some dst → sr = some dst → cld = true →
            ∃ t, exec (.swap cm1 cld sr dr) s = .next t ∧ (s.Lands t dr y ∨ s.Lands t dr 0) ∧ s.Frame [.p, dst] [] [] t)
        ∧ (∀ src dst, sr = some src → dr = some dst → src ≠ dst →
            ∃ t, exec (.swap cm1 cld sr dr) s = .next t ∧ t.reg dst = y
              ∧ t.reg src = (if cld then 0 else s.operandOf dr)
              ∧ (src ≠ .p → dst ≠ .p → t.reg .p = s.reg .p + 1) ∧ s.Frame [.p, src, dst] [] [] t))

/-- RADD, and COPY, RCLR, EXIT, RDCR, RINC, RSUB as the RADD each stands for (R172, R173, R178 to R184): the sum of the
operands and the carry-in, C the carry out, Q the signed overflow, O sticky; with no destination only C is cleared; ADC with
AD1 does nothing. That the carry-in is no operand of the overflow test is the spec's own choice D12 (R173; log 42). -/
def Obligations.RegisterAdd : Prop :=
  ∀ (s : State) (sr dr : Option Reg) (adc ad1 cm1 cld : Bool),
    let x := if cld then 0 else s.operandOf dr
    let y := if cm1 then ~~~(s.operandOf sr) else s.operandOf sr
    let cin := ad1 || (adc && s.flag .c)
    (∀ i ∈ [Instr.radd adc ad1 cm1 cld sr dr] ++ (if (adc, ad1, cm1, cld) = (false, false, false, true) then
          [Instr.copy sr dr] ++ (if sr = none then [.rclr dr] else []) ++ (if (sr, dr) = (some .l, some .p) then [.exit] else [])
        else []) ++ (if (adc, ad1, cm1, cld, sr) = (false, false, true, false, none) then [.rdcr dr] else [])
        ++ (if (adc, ad1, cm1, cld, sr) = (false, true, false, false, none) then [.rinc dr] else [])
        ++ (if (adc, ad1, cm1, cld) = (false, true, true, false) then [.rsub sr dr] else []),
      (¬(adc = true ∧ ad1 = true) → ∀ r, dr = some r →
        ∃ t, exec i s = .next t ∧ s.Lands t dr (x + y + (if cin then 1 else 0))
          ∧ t.flag .c = decide (65536 ≤ x.toNat + y.toNat + cin.toNat)
          ∧ t.flag .q = outOfWord (x.toInt + y.toInt + cin.toNat) ∧ t.flag .o = (s.flag .o || t.flag .q)
          ∧ s.Frame [.p, r] [.c, .q, .o] [] t)
      ∧ (¬(adc = true ∧ ad1 = true) → dr = none →
        ∃ t, exec i s = .next t ∧ t.flag .c = false ∧ t.reg .p = s.reg .p + 1 ∧ s.Frame [.p] [.c] [] t)
      ∧ (adc = true → ad1 = true → exec i s = .next s.advance))

/-- RMPY, RDIV, MIX3 (R185, R186, R188). RDIV truncates toward zero, the remainder has the sign of the dividend; an overflow
or the divisor zero sets Z and raises code 5 (R481). The model's choice: log 22. The spec's own choices: D13 (RMPY writes no
flag), D14 and D15 (Z is sticky, a divisor zero is an overflow), D17 (MIX3 wraps), D47 (code 5); log 42. -/
def Obligations.MultiplyDivide : Prop :=
  ∀ (sr dr : Option Reg) (s : State),
    (∀ r, dr = some r →
        ∃ t, exec (.rmpy sr dr) s = .next t
          ∧ (t.reg .a ++ t.reg .d).toInt = (s.operandOf sr).toInt * (s.operandOf dr).toInt
          ∧ t.reg .p = s.reg .p + 1 ∧ s.Frame [.a, .d, .p] [] [] t)
      ∧ (dr = none → exec (.rmpy sr dr) s = .next s.advance)
      ∧ (∀ n d q r : Int, n = (s.reg .a ++ s.reg .d).toInt → d = (s.operandOf sr).toInt → d ≠ 0 → n = q * d + r →
          r.natAbs < d.natAbs → (r = 0 ∨ (0 < r ↔ 0 < n)) →
          (outOfWord q = false →
            ∃ t, exec (.rdiv sr) s = .next t ∧ (t.reg .a).toInt = q ∧ (t.reg .d).toInt = r ∧ t.reg .p = s.reg .p + 1
              ∧ s.Frame [.a, .d, .p] [] [] t)
          ∧ (outOfWord q = true →
            ∃ t, exec (.rdiv sr) s = .next (t.raiseAfter 5) ∧ t.flag .z = true ∧ t.reg .p = s.reg .p + 1
              ∧ s.Frame [.a, .d, .p] [.z] [] t))
      ∧ (s.operandOf sr = 0 →
          ∃ t, exec (.rdiv sr) s = .next (t.raiseAfter 5) ∧ t.flag .z = true ∧ t.reg .p = s.reg .p + 1
            ∧ s.Frame [.a, .d, .p] [.z] [] t)
      ∧ (∃ t, exec .mix3 s = .next t ∧ t.reg .x = (s.reg .a - 1) * 3 ∧ t.reg .p = s.reg .p + 1 ∧ s.Frame [.x, .p] [] [] t)

/-- EXR (R187): the word in the register is executed as if fetched from the EXR's address; a word that is an EXR sets Z,
raises code 5 and does nothing else; an undefined word raises code 4 (log 43). EXR of EXR does nothing but set Z by the
spec's own choice D16, and code 5 follows by D47 (log 42). -/
def Obligations.RegisterExecute : Prop :=
  ∀ (sr : Option Reg) (s : State),
    (∀ i, decodeWord (s.operandOf sr) = .ok i → (∀ r, i ≠ .exr r) → exec (.exr sr) s = exec i s)
      ∧ (∀ n : BitVec 8, s.operandOf sr = 0o170400 + n.setWidth 16 →
          ∃ t, exec (.exr sr) s = .next t ∧ t.reg .a = n.signExtend 16 ∧ t.reg .p = s.reg .p + 1
            ∧ s.Frame [.a, .p] [] [] t)
      ∧ (s.operandOf sr &&& 0o177707 = 0o140600 →
          ∃ t, exec (.exr sr) s = .next (t.raiseAfter 5) ∧ t.flag .z = true ∧ t.reg .p = s.reg .p + 1
            ∧ s.Frame [.p] [.z] [] t)
      ∧ (∀ e, decodeWord (s.operandOf sr) = .error e → exec (.exr sr) s = raiseAbort 4 s)

/-! ### Shifts -/

/-- A word shifted by `n` places with what R253 lets enter; a link shift by one place only. -/
def Sys2Proof.shifted {w : Nat} (type : ShiftType) (left m : Bool) (n : Nat) (v : BitVec w) : BitVec w :=
  match type, left with
  | .arith, true | .zin, true => v <<< n
  | .arith, false => v.sshiftRight n
  | .zin, false => v >>> n
  | .rot, true => v.rotateLeft (n % w)
  | .rot, false => v.rotateRight (n % w)
  | .lin, true => (v <<< 1) ||| (BitVec.ofBool m).setWidth w
  | .lin, false => (v >>> 1) ||| ((BitVec.ofBool m).setWidth w <<< (w - 1))

/-- The last bit that a shift by `n` places (n at least 1) discards. -/
def Sys2Proof.lastShifted {w : Nat} (type : ShiftType) (left : Bool) (n : Nat) (v : BitVec w) : Bool :=
  match type, left with
  | .arith, true | .zin, true => decide (n ≤ w) && v.getLsbD (w - n)
  | .arith, false => if n ≤ w then v.getLsbD (n - 1) else v.msb
  | .zin, false => v.getLsbD (n - 1)
  | .rot, true => v.getLsbD ((w - n % w) % w)
  | .rot, false => v.getLsbD ((n - 1) % w)
  | .lin, true => v.msb
  | .lin, false => v.getLsbD 0

/-- SHT, SHD, SHA on 16 bits, SAD on A and D connected (R251 to R257): the count is signed, positive to the left; a count of
zero changes nothing by the spec's own choice D22 (R252; log 42); M is the last bit discarded; LIN takes M in at its first
place, and by more places goes on with free bits (log 25). Left arithmetic shifts: log 52. -/
def Obligations.Shifts : Prop :=
  ∀ (type : ShiftType) (count : BitVec 6) (s : State),
    let n := count.toInt.natAbs
    let left := decide (0 < count.toInt)
    (∀ p ∈ [(Instr.sht type count, Reg.t), (.shd type count, .d), (.sha type count, .a)],
        (n = 0 → exec p.1 s = .next s.advance)
        ∧ (0 < n → ∃ t, exec p.1 s = .next t
            ∧ (type ≠ .lin ∨ n = 1 → t.reg p.2 = shifted type left (s.flag .m) n (s.reg p.2)
              ∧ t.flag .m = lastShifted type left n (s.reg p.2))
            ∧ t.reg .p = s.reg .p + 1 ∧ s.Frame [p.2, .p] [.m] [] t))
      ∧ (n = 0 → exec (.sad type count) s = .next s.advance)
      ∧ (0 < n → ∃ t, exec (.sad type count) s = .next t
          ∧ (type ≠ .lin ∨ n = 1 → t.reg .a ++ t.reg .d = shifted type left (s.flag .m) n (s.reg .a ++ s.reg .d)
            ∧ t.flag .m = lastShifted type left n (s.reg .a ++ s.reg .d))
          ∧ t.reg .p = s.reg .p + 1 ∧ s.Frame [.a, .d, .p] [.m] [] t)

/-! ### Argument and bit instructions -/

/-- SAA, SAT, SAB, SAX, with their encodings: the register receives the sign-extended number, no flag changes (R292 to R295). -/
def Obligations.SetArguments : Prop :=
  ∀ (n : BitVec 8) (s : State),
    ∀ p ∈ [(Instr.saa n, 0o170400#16, Reg.a), (.sat n, 0o171000, .t), (.sab n, 0o170000, .b), (.sax n, 0o171400, .x)],
      encode p.1 = p.2.1 + n.setWidth 16
        ∧ ∃ t, exec p.1 s = .next t ∧ t.reg p.2.2 = n.signExtend 16 ∧ t.reg .p = s.reg .p + 1
          ∧ s.Frame [p.2.2, .p] [] [] t

/-- AAA, AAB, AAT, AAX, with their encodings: the sum with the sign-extended number; C, Q and O as the adder sets them (R296
to R299, the spec's own choice D28). -/
def Obligations.AddArguments : Prop :=
  ∀ (n : BitVec 8) (s : State),
    ∀ p ∈ [(Instr.aaa n, 0o172400#16, Reg.a), (.aab n, 0o172000, .b), (.aat n, 0o173000, .t), (.aax n, 0o173400, .x)],
      encode p.1 = p.2.1 + n.setWidth 16
        ∧ ∃ t, exec p.1 s = .next t ∧ t.reg p.2.2 = s.reg p.2.2 + n.signExtend 16
          ∧ t.flag .c = decide (65536 ≤ (s.reg p.2.2).toNat + (n.signExtend 16).toNat)
          ∧ t.flag .q = outOfWord ((s.reg p.2.2).toInt + n.toInt) ∧ t.flag .o = (s.flag .o || t.flag .q)
          ∧ t.reg .p = s.reg .p + 1 ∧ s.Frame [p.2.2, .p] [.c, .q, .o] [] t

/-- BSET, BSTC and BSTA (R302 to R305, R310, R311): the bit receives 0, 1, its complement, K, or the complement of K; BSTC
then sets and BSTA clears K; a 1 written into SSZ raises code 5 (R481); the bit of P of the next instruction's address,
where a write is a jump (R301). The spec's own choice D27 for BSTC of K and for P as an operand; code 5 after a write of SSZ
is also D47; code 5 by the spec's inference in R303. -/
def Obligations.BitStores : Prop :=
  ∀ (bn : BitVec 4) (dr : StsOrReg) (s : State), (dr = .sts → bn < 8) →
    (∀ p ∈ [(Instr.bsetZro bn dr, false), (.bsetOne bn dr, true), (.bsetBcm bn dr, !s.bitAt bn dr),
          (.bsetBac bn dr, s.flag .k)],
        ∃ t, exec p.1 s = .next (if dr = .sts ∧ bn = 3 ∧ p.2 = true then t.raiseAfter 5 else t)
          ∧ s.BitWritten t bn dr p.2 ∧ s.Frame (.p :: regsOf dr) (if dr = .sts then allFlags else []) [] t)
      ∧ (∀ p ∈ [(Instr.bstc bn dr, !s.flag .k, true), (.bsta bn dr, s.flag .k, false)],
        ∃ t u, exec p.1 s = .next (if dr = .sts ∧ bn = 3 ∧ p.2.1 = true then t.raiseAfter 5 else t)
          ∧ s.BitWritten u bn dr p.2.1 ∧ s.Frame (.p :: regsOf dr) (if dr = .sts then allFlags else []) [] u
          ∧ t = u.setFlag .k p.2.2)

/-- BLDC, BLDA, BANC, BAND, BORC, BORA, with their encodings, write K alone, from the bit, or its complement, and
K (R312 to R317). The bit of P is that of the next instruction's address by the spec's own choice D27 (R301). -/
def Obligations.BitLoads : Prop :=
  ∀ (bn : BitVec 4) (dr : StsOrReg) (s : State), (dr = .sts → bn < 8) →
    let b := s.bitAt bn dr
    let k := s.flag .k
    ∀ p ∈ [(Instr.bldc bn dr, 0o176400#16, !b), (.blda bn dr, 0o176600, b), (.banc bn dr, 0o177000, !b && k),
        (.band bn dr, 0o177200, b && k), (.borc bn dr, 0o177400, !b || k), (.bora bn dr, 0o177600, b || k)],
      encode p.1 = p.2.1 + bn.setWidth 16 * 8 + (match dr with
          | .sts => 0
          | .reg .d => 1
          | .reg .p => 2
          | .reg .b => 3
          | .reg .l => 4
          | .reg .a => 5
          | .reg .t => 6
          | .reg .x => 7)
        ∧ ∃ t, exec p.1 s = .next t ∧ t.flag .k = p.2.2 ∧ t.reg .p = s.reg .p + 1 ∧ s.Frame [.p] [.k] [] t

/-- BSKP writes nothing and skips one word when the bit is 0, is 1, is the complement of K or is K (R306 to R309; that BCM
compares with K is from general knowledge, log 51). The bit of P by the spec's own choice D27 (R301). -/
def Obligations.BitSkips : Prop :=
  ∀ (bn : BitVec 4) (dr : StsOrReg) (s : State), (dr = .sts → bn < 8) →
    let b := s.bitAt bn dr
    let k := s.flag .k
    ∀ p ∈ [(Instr.bskpZro bn dr, !b), (.bskpOne bn dr, b), (.bskpBcm bn dr, b != k), (.bskpBac bn dr, b == k)],
      ∃ t, exec p.1 s = .next t ∧ t.reg .p = (if p.2 then s.reg .p + 2 else s.reg .p + 1) ∧ s.Frame [.p] [] [] t

/-! ### Bytes and blocks -/

/-- LBYT and SBYT (R320 to R322): the word at T + X/2, the left byte for even X; the other byte of a stored word stays as it
was read. X is halved as an unsigned number by the spec's own choice D29, and the table is APT with PTM = 1 by D30 (log 42).
An access that is refused ends the instruction before it has changed a register or a word (R492; D20). -/
def Obligations.ByteAccess : Prop :=
  ∀ s : State, s.memoryWf →
    let a := s.reg .t + (s.reg .x >>> 1)
    let odd := (s.reg .x).getLsbD 0
    (∀ v u, readVirt (if s.flag .ptm then .apt else .pt) a s = .ok v u →
        ∃ t, exec .lbyt s = .next t
          ∧ t.reg .a = (if odd then v.extractLsb' 0 8 else v.extractLsb' 8 8).setWidth 16
          ∧ t.reg .p = s.reg .p + 1 ∧ s.Frame [.a, .p] [] [] t)
      ∧ (∀ v g, s.modifies (if s.flag .ptm then .apt else .pt) a v g →
        ∃ t, exec .sbyt s = .next t
          ∧ (g ≠ .absent → t.wordAt g = if odd then v.extractLsb' 8 8 ++ (s.reg .a).extractLsb' 0 8
              else (s.reg .a).extractLsb' 0 8 ++ v.extractLsb' 0 8)
          ∧ t.reg .p = s.reg .p + 1 ∧ s.Frame [.p] [] [g] t)
      ∧ (readVirt (if s.flag .ptm then .apt else .pt) a s).Ends .lbyt s
      ∧ ((resolve .read (if s.flag .ptm then .apt else .pt) a s).bind fun _ u =>
          resolve .write (if s.flag .ptm then .apt else .pt) a u).Ends .sbyt s

/-- BFILL (R323, R324) with paging off: every byte of the field is the low byte of A, X and T point after the field, whose
length is then zero. MOVB and MOVBF (R325, R326; log 29): the lesser of the two lengths; MOVB moves as if all bytes were
read first, MOVBF one byte at a time in ascending order; the descriptors then point after the fields. No other byte changes.
An access that is refused, in the table of D30 (R93), APT with PTM = 1, ends the instruction before it has changed a register
or a word, and in any case it goes to its end or changes none (R492, D20; log 44); the exceptions of BFILL are those of
writes (log 28). That X and A move on to the word after
the field is the spec's inference in R324 and R325. -/
def Obligations.ByteBlocks : Prop :=
  (∀ s : State, s.memoryWf → s.plain → (s.reg .t).getLsbD 13 = false →
      let n := ((s.reg .t).extractLsb' 0 12).toNat
      let lr := (s.reg .t).getLsbD 15
      ∃ t, exec .bfill s = .next t
        ∧ (∀ i < n, t.byte (fieldByte (s.reg .x) lr i) = (s.reg .a).extractLsb' 0 8)
        ∧ (∀ p, (∀ i < n, p ≠ fieldByte (s.reg .x) lr i) → t.byte p = s.byte p)
        ∧ t.reg .x = s.reg .x + BitVec.ofNat 16 ((lr.toNat + n) / 2)
        ∧ (t.reg .t).getLsbD 15 = decide ((lr.toNat + n) % 2 = 1)
        ∧ (t.reg .t).extractLsb' 12 3 = (s.reg .t).extractLsb' 12 3 ∧ (t.reg .t).extractLsb' 0 12 = 0
        ∧ t.reg .p = s.reg .p + 1
        ∧ s.Frame [.x, .t, .p] [] ((List.range n).map fun i => s.wordTarget (fieldByte (s.reg .x) lr i).addr) t)
    ∧ (∀ s : State, s.memoryWf → s.plain → (s.reg .d).getLsbD 13 = false → (s.reg .t).getLsbD 13 = false →
      let n := min ((s.reg .d).extractLsb' 0 12).toNat ((s.reg .t).extractLsb' 0 12).toNat
      let src := fieldByte (s.reg .a) ((s.reg .d).getLsbD 15)
      let dst := fieldByte (s.reg .x) ((s.reg .t).getLsbD 15)
      ∀ i ∈ [Instr.movb, .movbf], ∃ t, exec i s = .next t
        ∧ (i = .movb → ∀ k < n, t.byte (dst k) = s.byte (src k))
        ∧ (i = .movbf → ∀ k < n, t.byte (dst k) = if ∃ j < k, src k = dst j then t.byte (src k) else s.byte (src k))
        ∧ (∀ p, (∀ k < n, p ≠ dst k) → t.byte p = s.byte p)
        ∧ t.reg .a = (src n).addr ∧ (t.reg .d).getLsbD 15 = (src n).odd
        ∧ (t.reg .d).extractLsb' 12 3 = (s.reg .d).extractLsb' 12 3 ∧ (t.reg .d).extractLsb' 0 12 = 0
        ∧ t.reg .x = (dst n).addr ∧ (t.reg .t).getLsbD 15 = (dst n).odd
        ∧ (t.reg .t).extractLsb' 12 3 = (s.reg .t).extractLsb' 12 3 ∧ (t.reg .t).extractLsb' 0 12 = BitVec.ofNat 12 n
        ∧ t.reg .p = s.reg .p + 1
        ∧ s.Frame [.a, .d, .x, .t, .p] [] ((List.range n).map fun k => s.wordTarget (dst k).addr) t)
    ∧ (∀ s : State, (s.reg .t).getLsbD 13 = false →
      let tbl : Table := if s.flag .ptm then .apt else .pt
      let both (a : Word) (u : State) : Res Word :=
        (resolve .read tbl a u).bind fun g v => (resolve .write tbl a v).bind fun _ w => load g w
      let fill (a : Word) (u : State) : Res Word := (resolve .write tbl a u).bind load
      let words (d1 d2 : Word) (n : Nat) : List Word := (List.range n).map fun k => (fieldByte d1 (d2.getLsbD 15) k).addr
      let length := ((s.reg .t).extractLsb' 0 12).toNat
      let n := min ((s.reg .d).extractLsb' 0 12).toNat length
      let src := words (s.reg .a) (s.reg .d) n
      let dst := words (s.reg .x) (s.reg .t) n
      let atOnce (i : Instr) : Prop := (∃ t, exec i s = .next t ∧ t.reg .p = s.reg .p + 1) ∨ s.Refused (exec i s)
      (mapRes fill (words (s.reg .x) (s.reg .t) length) s).Ends .bfill s ∧ atOnce .bfill
        ∧ ((s.reg .d).getLsbD 13 = false →
          ((mapRes (readVirt tbl) src s).bind fun _ u => mapRes both dst u).Ends .movb s ∧ atOnce .movb
            ∧ (mapRes (fun p u => (readVirt tbl p.1 u).bind fun _ v => both p.2 v) (src.zip dst) s).Ends .movbf s
            ∧ atOnce .movbf))

/-- MOVEW (R327, R328) outside user mode with paging off: more than 2048 words move nothing; else the words move in
ascending order, D and T count up, A and X take the carries of physical addresses, L counts down; stopped at an interruption
point it leaves P at itself (R492). The model's choices: logs 9, 28 and 30. L unchanged when it is above 2048 is the spec's
own choice D31 (log 42). -/
def Obligations.MoveWords : Prop :=
  ∀ (kind : MovewKind) (s : State), s.memoryWf → s.plain →
    let n := min (s.reg .l).toNat s.pollAfter
    let fromPhys := kind ∈ [.physPt, .physApt, .physPhys]
    let toPhys := kind ∈ [.ptPhys, .aptPhys, .physPhys]
    let carry (w : Word) (k : Nat) : Word := if 65536 ≤ w.toNat + k then 1 else 0
    let target (phys : Bool) (bank offset : Word) (k : Nat) : Target :=
      if phys then s.physTarget ((bank + carry offset k).extractLsb' 0 8 ++ (offset + BitVec.ofNat 16 k))
      else s.wordTarget (offset + BitVec.ofNat 16 k)
    let src := target (decide fromPhys) (s.reg .a) (s.reg .d)
    let dst := target (decide toPhys) (s.reg .x) (s.reg .t)
    (2048 < (s.reg .l).toNat → exec (.movew kind) s = .next s.advance)
      ∧ ((s.reg .l).toNat ≤ 2048 →
        ∃ t, exec (.movew kind) s = .next t
          ∧ t.reg .d = s.reg .d + BitVec.ofNat 16 n ∧ t.reg .t = s.reg .t + BitVec.ofNat 16 n
          ∧ t.reg .a = (if fromPhys then s.reg .a + carry (s.reg .d) n else s.reg .a)
          ∧ t.reg .x = (if toPhys then s.reg .x + carry (s.reg .t) n else s.reg .x)
          ∧ t.reg .l = s.reg .l - BitVec.ofNat 16 n
          ∧ t.reg .p = (if n = (s.reg .l).toNat then s.reg .p + 1 else s.reg .p)
          ∧ (∀ k < n, t.wordAt (dst k) = if ∃ j < k, src k = dst j then t.wordAt (src k) else s.wordAt (src k))
          ∧ s.Frame [.a, .d, .x, .t, .l, .p] [] ((List.range n).map dst) t)

/-- VERSN (R329, R47): the constants of the installation; A bits 11-8 choose the byte of the installation number. The
spec's own choice D32. -/
def Obligations.Version : Prop :=
  ∀ s : State,
    encode .versn = 0o140133
      ∧ ∃ t, exec .versn s = .next t ∧ t.reg .a = s.cfg.versnPrint ∧ t.reg .t = s.cfg.versnMicroprogram
        ∧ (∀ k : Fin 16, (k.val = ((s.reg .a).extractLsb' 8 4).toNat) → t.reg .d = (s.cfg.installationNumber[k]).setWidth 16)
        ∧ t.reg .p = s.reg .p + 1 ∧ s.Frame [.a, .t, .d, .p] [] [] t

/-! ### Decimal instructions -/

/-- A decimal field written with a number and a sign reads back as that number, cut to its digits: BCD of even length (R341)
and ASCII in the five sign forms (R342). The separate sign codes are from general knowledge (log 33). -/
def Obligations.DecimalRoundTrip : Prop :=
  (∀ (k mag : Nat) (sign : Nibble), 10 ≤ sign → 0 < k →
      (encodeBcd (2 * k) sign mag).length = k
        ∧ decodeBcd (nibbles (encodeBcd (2 * k) sign mag)) =
          some { neg := sign == 11 || sign == 13, unsigned := sign == 15, mag := mag % 10 ^ (2 * k - 1) })
    ∧ (∀ (form : AsciiForm) (n mag : Nat) (neg : Bool), 0 < n → (form = .unsigned → neg = false) →
      let rs := readAsciiBytes form n 0 (encodeAscii form n neg mag)
      (∀ r ∈ rs, r ≠ none)
        ∧ asciiNumber form rs = { neg := neg, unsigned := form == .unsigned, mag := mag % 10 ^ asciiCapacity form n })

/-- ADDD, SUBD, COMD (R343 to R348) on fields of even length with paging off: the first field holds the sum or difference
with its sign, unsigned as bit 13 of D says, and the next instruction is skipped; a result that does not fit and an illegal
code take the error return, with any bytes in the result field (log 32). That A, D, X and T stay after ADDD and SUBD is the
spec's own choice D36 (log 42). -/
def Obligations.DecimalArithmetic : Prop :=
  ∀ s : State, s.memoryWf → s.plain → (s.reg .d).getLsbD 14 = false → (s.reg .t).getLsbD 14 = false →
    (firstField s).length % 2 = 0 → (secondField s).length % 2 = 0 →
    let f := firstField s
    let g := secondField s
    let stored := s.fieldTargets f (f.length / 2)
    (∀ x y, s.bcd f = some x → s.bcd g = some y →
        (∀ p ∈ [(Instr.addd, x.val + y.val), (.subd, x.val - y.val)],
          (p.2.natAbs < 10 ^ (f.length - 1) →
            ∃ t z, exec p.1 s = .next t ∧ t.bcd f = some z ∧ z.mag = p.2.natAbs
              ∧ (0 < f.length → z.unsigned = f.unsigned) ∧ (f.unsigned = false → z.val = p.2)
              ∧ t.reg .p = s.reg .p + 2 ∧ s.Frame [.p] [] stored t)
          ∧ (10 ^ (f.length - 1) ≤ p.2.natAbs →
            ∃ t, exec p.1 s = .next t ∧ t.reg .p = s.reg .p + 1 ∧ s.Frame [.p] [] stored t))
        ∧ (∃ t, exec .comd s = .next t
            ∧ t.reg .a = (if x.val = y.val then 0 else if y.val < x.val then 1 else 0xFFFF)
            ∧ t.reg .p = s.reg .p + 2 ∧ s.Frame [.a, .p] [] [] t))
      ∧ (s.bcd f = none ∨ s.bcd g = none →
        (∀ i ∈ [Instr.addd, .subd], ∃ t, exec i s = .next t ∧ t.reg .p = s.reg .p + 1 ∧ s.Frame [.p] [] stored t)
        ∧ (∃ t, exec .comd s = .next t ∧ t.reg .p = s.reg .p + 1 ∧ s.Frame [.a, .p] [] [] t))

/-- PACK and UPACK (R349, R350) with paging off: the number read from the first field stands in the second, cut to its
digits; all of it fits: the next instruction is skipped; else error code 3 in D bits 4-0; an illegal code: error code
2, A and D bit 15 point to its byte, nothing is stored. The model's choices: logs 32 and 33. -/
def Obligations.DecimalConversions : Prop :=
  ∀ s : State, s.memoryWf → s.plain → (s.reg .d).getLsbD 14 = false → (s.reg .t).getLsbD 14 = false →
    let f := firstField s
    let g := secondField s
    let codeIn (t : State) (fits : Bool) : Prop :=
      (t.reg .d).extractLsb' 5 11 = (s.reg .d).extractLsb' 5 11
        ∧ (fits = false → (t.reg .d).extractLsb' 0 5 = 3)
        ∧ t.reg .p = if fits then s.reg .p + 2 else s.reg .p + 1
    let illegalAt (t : State) (i : Nat) : Prop :=
      t.reg .a = (fieldByte f.start f.right i).addr ∧ (t.reg .d).getLsbD 15 = (fieldByte f.start f.right i).odd
        ∧ (t.reg .d).extractLsb' 5 10 = (s.reg .d).extractLsb' 5 10 ∧ (t.reg .d).extractLsb' 0 5 = 2
        ∧ t.reg .p = s.reg .p + 1 ∧ s.Frame [.a, .d, .p] [] [] t
    (g.length % 2 = 0 →
        (∀ i, (s.ascii f).findIdx? (· == none) = some i → ∃ t, exec .pack s = .next t ∧ illegalAt t i)
        ∧ ((∀ r ∈ s.ascii f, r ≠ none) →
          let x := asciiNumber (asciiForm f.ascii) (s.ascii f)
          ∃ t z, exec .pack s = .next t ∧ t.bcd g = some z ∧ z.mag = x.mag % 10 ^ (g.length - 1)
            ∧ (0 < g.length → z.unsigned = g.unsigned ∧ (g.unsigned = false → z.neg = x.neg))
            ∧ codeIn t (decide (x.mag < 10 ^ (g.length - 1)))
            ∧ s.Frame [.d, .p] [] (s.fieldTargets g (g.length / 2)) t))
      ∧ (f.length % 2 = 0 →
        (∀ j, (bcdChecks (nibbles (s.decimalBytes f (f.length / 2)))).findIdx? (· == false) = some j →
          ∃ t, exec .upack s = .next t ∧ illegalAt t (j / 2))
        ∧ (∀ x, s.bcd f = some x →
          let form := asciiForm g.ascii
          ∃ t, exec .upack s = .next t ∧ (∀ r ∈ t.ascii g, r ≠ none)
            ∧ (asciiNumber form (t.ascii g)).mag = x.mag % 10 ^ asciiCapacity form g.length
            ∧ (0 < g.length → form ≠ .unsigned → (asciiNumber form (t.ascii g)).neg = x.neg)
            ∧ codeIn t (decide (x.mag < 10 ^ asciiCapacity form g.length))
            ∧ s.Frame [.d, .p] [] (s.fieldTargets g g.length) t))

/-- SHDE (R351) with paging off: the magnitude shifted by the difference of the decimal points, rounded if bit 10 of the
second D2 is set, stands in the second field; lost digits and illegal codes take the error return and store nothing. The
model's choice: log 34. The decimal points are unsigned by the spec's own choice D35 (log 42). -/
def Obligations.DecimalShift : Prop :=
  ∀ s : State, s.memoryWf → s.plain → (s.reg .d).getLsbD 14 = false → (s.reg .t).getLsbD 14 = false →
    (firstField s).length % 2 = 0 → (secondField s).length % 2 = 0 →
    let f := firstField s
    let g := secondField s
    (∀ x, s.bcd f = some x →
        let right := ((s.reg .t).extractLsb' 5 5).toNat - ((s.reg .d).extractLsb' 5 5).toNat
        let left := ((s.reg .d).extractLsb' 5 5).toNat - ((s.reg .t).extractLsb' 5 5).toNat
        let rounds := (s.reg .t).getLsbD 10 = true ∧ 0 < right ∧ 5 ≤ x.mag / 10 ^ (right - 1) % 10
        let q := x.mag * 10 ^ left / 10 ^ right + if rounds then 1 else 0
        (q < 10 ^ (g.length - 1) →
          ∃ t z, exec .shde s = .next t ∧ t.bcd g = some z ∧ z.mag = q
            ∧ (0 < g.length → z.unsigned = (x.unsigned && g.unsigned) ∧ (z.unsigned = false → z.neg = x.neg))
            ∧ t.reg .p = s.reg .p + 2 ∧ s.Frame [.p] [] (s.fieldTargets g (g.length / 2)) t)
        ∧ (10 ^ (g.length - 1) ≤ q → exec .shde s = .next s.advance))
      ∧ (s.bcd f = none → exec .shde s = .next s.advance)

/-! ### Stack and semaphores -/

/-- ENTR and INIT (R355, R357, R358): with the words read and the frame writable, LINK, PREVB, STP and SMAX of the new frame
are stored and B points to it; stack overflow and (INIT) a flag that differs from PTM take the error return and store
nothing. LEAVE and ELEAV (R356, R359): B and P come from PREVB and LINK; ELEAV counts LINK down, in memory too, and stores A
as ERRCODE of the frame returned to, by the spec's own choice D34 (R356; log 42). Stack overflow is its own choice D33 (log
35); all is checked before a store by D20 (R355, R492; log 44), so that a refused access leaves every register and word, and
ELEAV, whose accesses come in the order of R356 (R111), goes to its end or leaves them. -/
def Obligations.StackFrames : Prop :=
  (∀ s : State, s.memoryWf →
      let frame (b : Word) : List Word := [b - 0o200, b - 0o177, b - 0o176, b - 0o175]
      let entered (i : Instr) (u : State) (b stp smax size : Word) : Prop :=
        ∀ gs w, mapRes (resolve .write (if s.flag .ptm then .apt else .pt)) (frame b) u = .ok gs w →
          ∃ t, exec i s = .next t ∧ (.absent ∉ gs → gs.map t.wordAt = [s.reg .l + 1, s.reg .b, stp, smax]) ∧ t.reg .b = b
            ∧ t.reg .p = s.reg .p + size ∧ s.Frame [.b, .p] [] gs t
      let refused (i : Instr) (u : State) (b : Word) : Prop :=
        (mapRes (resolve .write (if s.flag .ptm then .apt else .pt)) (frame b) u).Ends i s
      (∀ demand stp smax u v w, readVirt .pt (s.reg .p + 1) s = .ok demand u →
          readVirt (if s.flag .ptm then .apt else .pt) (s.reg .b - 0o176) u = .ok stp v →
          readVirt (if s.flag .ptm then .apt else .pt) (s.reg .b - 0o175) v = .ok smax w →
          let b := stp + 0o200
          (smax.toNat < demand.toNat + b.toNat →
            ∃ t, exec .entr s = .next t ∧ t.reg .p = s.reg .p + 2 ∧ s.Frame [.p] [] [] t)
          ∧ (demand.toNat + b.toNat ≤ smax.toNat → entered .entr w b (demand + b) smax 3 ∧ refused .entr w b))
        ∧ (∀ demand start size flag u v w x, readVirt .pt (s.reg .p + 1) s = .ok demand u →
          readVirt .pt (s.reg .p + 2) u = .ok start v → readVirt .pt (s.reg .p + 3) v = .ok size w →
          readVirt .pt (s.reg .p + 4) w = .ok flag x →
          let b := start + 0o200
          (flag.getLsbD 0 ≠ s.flag .ptm ∨ (start + size).toNat < (demand + b).toNat →
            ∃ t, exec .init s = .next t ∧ t.reg .p = s.reg .p + 6 ∧ s.Frame [.p] [] [] t)
          ∧ (flag.getLsbD 0 = s.flag .ptm → (demand + b).toNat ≤ (start + size).toNat →
            entered .init x b (demand + b) (start + size) 7 ∧ refused .init x b)))
    ∧ (∀ s : State, s.memoryWf →
      let tbl : Table := if s.flag .ptm then .apt else .pt
      let b := s.reg .b
      (∀ link prevb u v, readVirt tbl (b - 0o200) s = .ok link u → readVirt tbl (b - 0o177) u = .ok prevb v →
          ∃ t, exec .leave s = .next t ∧ t.reg .b = prevb ∧ t.reg .p = link ∧ s.Frame [.b, .p] [] [] t)
        ∧ (∀ link prevb g h u v w x, readVirt tbl (b - 0o200) s = .ok link u → resolve .write tbl (b - 0o200) u = .ok g v →
          (∃ k y, ((readVirt tbl (b - 0o177) v).bind fun p w => resolve .write tbl (p - 0o173) w) = .ok k y) →
          readVirt tbl (b - 0o177) (store g (link - 1) v) = .ok prevb w → resolve .write tbl (prevb - 0o173) w = .ok h x →
          ∃ t, exec .eleav s = .next t ∧ t.reg .b = prevb ∧ t.reg .p = link - 1
            ∧ (h ≠ .absent → t.wordAt h = s.reg .a)
            ∧ (g ≠ .absent → g ≠ h → t.wordAt g &&& 0o163777 = (link - 1) &&& 0o163777)
            ∧ ((∃ pa, g = .mem pa) → g ≠ h → t.wordAt g = link - 1) ∧ s.Frame [.b, .p] [] [g, h] t)
        ∧ ((∃ t, exec .eleav s = .next t ∧ t.pil = s.pil ∧ t.reg .a = s.reg .a) ∨ s.Refused (exec .eleav s)))
    ∧ (∀ s : State,
      let tbl : Table := if s.flag .ptm then .apt else .pt
      let b := s.reg .b
      ((readVirt .pt (s.reg .p + 1) s).bind fun _ u => (readVirt tbl (b - 0o176) u).bind fun _ v =>
          readVirt tbl (b - 0o175) v).Ends .entr s
        ∧ ((readVirt .pt (s.reg .p + 1) s).bind fun _ u => (readVirt .pt (s.reg .p + 2) u).bind fun _ v =>
          (readVirt .pt (s.reg .p + 3) v).bind fun _ w => readVirt .pt (s.reg .p + 4) w).Ends .init s
        ∧ ((readVirt tbl (b - 0o200) s).bind fun _ u => readVirt tbl (b - 0o177) u).Ends .leave s
        ∧ ((readVirt tbl (b - 0o200) s).bind fun _ u => (resolve .write tbl (b - 0o200) u).bind fun _ v =>
          (readVirt tbl (b - 0o177) v).bind fun prevb w => resolve .write tbl (prevb - 0o173) w).Ends .eleav s)

/-! ### Privileged instructions -/

/-- IRR and IRW (R372, R373): a register of any level into A, A into a register of any level; STS is its low byte; P of the
current level reads as the instruction's address and a write to it is a jump, by the spec's own choice D38 (log 42). LRB and
SRB (R374 to R376): the block P X T A D L STS B at X; LRB reads all eight words first and leaves P of the current level; SRB
stores the address of the next instruction as P of the current level. That LRB reads first, and that a refused access leaves
every register and word (R492), is its own choice D20 (log 44). -/
def Obligations.LevelRegisters : Prop :=
  (∀ (l : Level) (dr : StsOrReg) (s : State), s.userMode = false →
      (∃ t, exec (.irr l dr) s = .next t
          ∧ t.reg .a = (match dr with
            | .sts => (s.level l).sts.setWidth 16
            | .reg r => (s.level l).get r)
          ∧ t.reg .p = s.reg .p + 1 ∧ s.Frame [.a, .p] [] [] t)
        ∧ (∃ t, exec (.irw l dr) s = .next t
          ∧ (match dr with
            | .sts => (t.level l).sts = (s.reg .a).extractLsb' 0 8 ∧ ∀ r, (r ≠ .p ∨ l ≠ s.pil) → (t.level l).get r = (s.level l).get r
            | .reg r => (t.level l).get r = s.reg .a ∧ (t.level l).sts = (s.level l).sts
              ∧ ∀ r', r' ≠ r → (r' ≠ .p ∨ l ≠ s.pil) → (t.level l).get r' = (s.level l).get r')
          ∧ (¬(l = s.pil ∧ dr = .reg .p) → t.reg .p = s.reg .p + 1)
          ∧ (l ≠ s.pil → (∀ r, r ≠ .p → t.reg r = s.reg r) ∧ t.stsLow = s.stsLow)
          ∧ (∀ k, k ≠ l → k ≠ s.pil → t.level k = s.level k) ∧ { t with levels := s.levels } = s))
    ∧ (∀ (l : Level) (s : State), s.memoryWf → s.userMode = false →
      let tbl : Table := if s.flag .ptm then .apt else .pt
      let block := (List.range 8).map fun i => s.reg .x + BitVec.ofNat 16 i
      (∀ p x t a d k sts b u, readList tbl block s = .ok [p, x, t, a, d, k, sts, b] u →
          ∃ n, exec (.lrb l) s = .next n
            ∧ n.level l =
              { p := if l = s.pil then s.reg .p + 1 else p, x := x, t := t, a := a, d := d, l := k
                sts := sts.extractLsb' 0 8, b := b }
            ∧ (l ≠ s.pil → n.reg .p = s.reg .p + 1 ∧ n.stsLow = s.stsLow ∧ ∀ r, r ≠ .p → n.reg r = s.reg r)
            ∧ (∀ k, k ≠ l → k ≠ s.pil → n.level k = s.level k)
            ∧ { n with levels := s.levels, ptab := s.ptab, free := s.free } = s ∧ s.pageBitsOnly n)
        ∧ (∀ gs u, mapRes (resolve .write tbl) block s = .ok gs u →
          ∃ n, exec (.srb l) s = .next n
            ∧ (.absent ∉ gs → gs.map n.wordAt =
                [if l = s.pil then s.reg .p + 1 else (s.level l).p, (s.level l).x, (s.level l).t, (s.level l).a,
                  (s.level l).d, (s.level l).l, (s.level l).sts.setWidth 16, (s.level l).b])
            ∧ n.reg .p = s.reg .p + 1 ∧ s.Frame [.p] [] gs n)
        ∧ (readList tbl block s).Ends (.lrb l) s ∧ (mapRes (resolve .write tbl) block s).Ends (.srb l) s)

/-- TRA (R378, R379; spec/10_state.md R29 to R45): A receives the register; insignificant bits are any value; the reads of
PANS and PEA have their side effects; that TRA IIC clears IIC is general knowledge taken up as the spec's own choice D44
(R32; log 42); a code without a register is refused. The model's choices: logs 7, 16, 17, 26 and 50. -/
def Obligations.InternalRead : Prop :=
  ∀ s : State, s.userMode = false →
    let reads (c : BitVec 4) (mask w : Word) (u : State) : Prop :=
      ∃ v k, exec (.tra c) s = .next (({ u with free := k } : State).setReg .a v).advance ∧ v &&& mask = w &&& mask
    let bit (b : Bool) (n : Nat) : Word := if b then BitVec.ofNat 16 (2 ^ n) else 0
    let pcr := s.pcr[((s.reg .a).extractLsb' 3 4).toNat]'(BitVec.isLt _)
    reads 0o0 (if s.cfg.panelInstalled then 0o173777 else 0o100000)
        (bit s.cfg.panelInstalled 15 + bit s.panel.fif 14 + bit s.panel.dat 13 + bit s.panel.rdy 12
          + s.panel.cmnd.setWidth 16 * 256 + s.panel.rpan.setWidth 16)
        { s with panel := { s.panel with rdy := false } }
      ∧ reads 0o1 0xFFFF (bit s.ioni 15 + bit s.poni 14 + bit s.sexi 13 + bit true 12 + s.pil.setWidth 16 * 256
          + s.stsLow.setWidth 16) s
      ∧ reads 0o2 0xFFFF s.opr s
      ∧ reads 0o3 (match s.cfg.ptMode with
          | .sixteen => 0o141777
          | .four => 0o140377)
          (bit s.pgs.ff 15 + bit s.pgs.pm 14 + s.pgs.pt.setWidth 16 * 64 + s.pgs.vpn.setWidth 16) s
      ∧ reads 0o4 0xFFFF (encode (.irr s.pvl (.reg .p))) s
      ∧ reads 0o5 0xFFFF (s.iic.setWidth 16) { s with iic := 0 }
      ∧ reads 0o6 0xFFFF s.pid s ∧ reads 0o7 0xFFFF s.pie s ∧ reads 0o10 0 0 s
      ∧ reads 0o11 0xFFFF (s.pid &&& s.pie) s ∧ reads 0o12 0xFFFF s.cfg.ald s
      ∧ reads 0o13 (if s.peLocked then 0xFFFF else 0) s.pes s
      ∧ (s.cfg.ptMode = .sixteen →
          reads 0o14 0o77773 (pcr.pt.setWidth 16 * 2048 + pcr.apt.setWidth 16 * 128 + (s.reg .a &&& 0o170)
            + pcr.ring.setWidth 16) s)
      ∧ (s.cfg.ptMode = .four →
          reads 0o14 0o3773 ((pcr.pt &&& 3).setWidth 16 * 512 + (pcr.apt &&& 3).setWidth 16 * 128 + (s.reg .a &&& 0o170)
            + pcr.ring.setWidth 16) s)
      ∧ reads 0o15 (if s.peLocked then 0xFFFF else 0) s.pea { s with peLocked := false }
      ∧ reads 0o17 (if (s.reg .x).msb then 0 else 0xFFFF) (controlWord s.cs (s.reg .x).toNat) s
      ∧ exec (.tra 0o16) s = .refused (.noSuchInternalRegister 0o16)

/-- TRR (R378, R380; spec/10_state.md R26 to R45): each register takes A; STS only its low byte, IIE bits 10-1, PCR the copy
of the level in bits 6-3; level selection follows PID and PIE; the cache registers are discarded. MCL and MST (R381, R382):
the bits set in A are cleared or set in the low byte of STS, PID and PIE. A requesting device holds its PID bit (R488);
other codes and a control store address with bit 15 are refused. The model's choices: logs 7, 13, 26, 45, 46, 47 and 50.
That a write of Z by TRR STS or MST STS raises nothing is the spec's own choice D47 (log 42). -/
def Obligations.InternalWrite : Prop :=
  (∀ s : State, s.userMode = false →
      let a := s.reg .a
      let n := s.advance
      exec (.trr 0o0) s = .next { n with panel :=
            { s.panel with ctlDat := a.getLsbD 13, ctlCmnd := a.extractLsb' 8 3, ctlRpan := a.extractLsb' 0 8 } }
        ∧ exec (.trr 0o1) s = .next (n.setStsLow (a.extractLsb' 0 8))
        ∧ exec (.trr 0o2) s = .next { n with lmp := a }
        ∧ (∃ t, exec (.trr 0o3) s = .next t ∧ { t with pcr := s.pcr } = n
            ∧ (∀ l : Level, t.pcr[l.toNat]'l.isLt =
              if l ≠ a.extractLsb' 3 4 then s.pcr[l.toNat]'l.isLt
              else match s.cfg.ptMode with
                | .sixteen => { pt := a.extractLsb' 11 4, apt := a.extractLsb' 7 4, ring := a.extractLsb' 0 2 }
                | .four =>
                  { pt := (a.extractLsb' 9 2).setWidth 4, apt := (a.extractLsb' 7 2).setWidth 4, ring := a.extractLsb' 0 2 }))
        ∧ exec (.trr 0o5) s = .next { n with iie := a &&& 0o3776 }
        ∧ exec (.trr 0o6) s = .next ({ n with pid := a ||| s.deviceLines } : State).selectLevel
        ∧ exec (.trr 0o7) s = .next ({ n with pie := a } : State).selectLevel
        ∧ (∀ c ∈ [0o10#4, 0o11, 0o12, 0o13], exec (.trr c) s = .next n)
        ∧ exec (.trr 0o15) s = .next { n with eccr := a.extractLsb' 0 5 }
        ∧ ((s.reg .x).msb = false →
            ∃ t, exec (.trr 0o17) s = .next t ∧ { t with cs := s.cs } = n
              ∧ controlWord t.cs (s.reg .x).toNat = a
              ∧ ∀ k, k ≠ (s.reg .x).toNat → controlWord t.cs k = controlWord s.cs k)
        ∧ ((s.reg .x).msb = true → exec (.trr 0o17) s = .refused .controlStoreAddress)
        ∧ (∀ c ∈ [0o4#4, 0o14, 0o16], exec (.trr c) s = .refused (.noSuchInternalRegister c)))
    ∧ (∀ s : State, s.userMode = false →
      let n := s.advance
      ∀ p ∈ [((Instr.mcl), fun v : Word => v &&& ~~~(s.reg .a)), ((Instr.mst), fun v : Word => v ||| s.reg .a)],
        exec (p.1 0o1) s = .next (n.setStsLow ((p.2 (s.stsLow.setWidth 16)).extractLsb' 0 8))
          ∧ exec (p.1 0o6) s = .next ({ n with pid := p.2 s.pid ||| s.deviceLines } : State).selectLevel
          ∧ exec (p.1 0o7) s = .next ({ n with pie := p.2 s.pie } : State).selectLevel
          ∧ ∀ c : BitVec 4, c ∉ [0o1, 0o6, 0o7] → exec (p.1 c) s = .refused (.noSuchInternalRegister c))

/-- IOX and IOXT (R383, R384, R485, R488, R496): bit 0 of the address is the direction; the transfer is recorded; with an
answer devices may withdraw requests, and PID stays (R473; log 13); without one code 7 is raised, an input leaves any value
in A. The model's choice: log 13. That IOX and IOXT reach one device space is the spec's own choice D39 (log 42). -/
def Obligations.InputOutput : Prop :=
  ∀ (n : BitVec 11) (s : State), s.userMode = false →
    ∀ p ∈ [(Instr.iox n, n.setWidth 16), (.ioxt, s.reg .t)],
      let recorded (data : Word) (answered : Bool) : State :=
        { s with ioHistory := { addr := p.2, data := data, answered := answered } :: s.ioHistory }
      let kept (data : Word) (l : Level) (r : List (BitVec 9)) : List (BitVec 9) :=
        r.filter fun d => !Config.transferWithdraws (recorded data true).ioHistory l d
      let withdrawn (data : Word) (u : State) : State :=
        { u with req10 := kept data 10 s.req10, req11 := kept data 11 s.req11, req12 := kept data 12 s.req12
                 req13 := kept data 13 s.req13 }
      (p.2.getLsbD 0 = false →
          match Config.deviceInput s.ioHistory p.2 with
          | some v => exec p.1 s = .next (withdrawn v ((recorded v true).setReg .a v).advance)
          | none =>
            ∃ t : State, exec p.1 s = .next (t.raiseAfter 7) ∧ t.reg .p = s.reg .p + 1
              ∧ { t with ioHistory := s.ioHistory, levels := s.levels, free := s.free } = s
              ∧ (∀ r, r ∉ [Reg.a, .p] → t.reg r = s.reg r) ∧ t.stsLow = s.stsLow ∧ ∀ l, l ≠ s.pil → t.level l = s.level l)
        ∧ (p.2.getLsbD 0 = true →
          if Config.deviceAccepts s.ioHistory p.2 (s.reg .a) then
            exec p.1 s = .next (withdrawn (s.reg .a) (recorded (s.reg .a) true).advance)
          else exec p.1 s = .next ((recorded (s.reg .a) false).advance.raiseAfter 7))

/-- IDENT (R385, R488): the nearest requesting device of the level is served: its code in A, its request withdrawn,
the PID bit cleared with the last, and the level selected anew; without one nothing changes. The model's choice: log
13. -/
def Obligations.Identify : Prop :=
  ∀ s : State, s.userMode = false →
    ∀ p ∈ [(Instr.identPl10, s.req10, 10, fun (u : State) r => ({ u with req10 := r } : State)),
        (.identPl11, s.req11, 11, fun u r => { u with req11 := r }),
        (.identPl12, s.req12, 12, fun u r => { u with req12 := r }),
        (.identPl13, s.req13, 13, fun u r => { u with req13 := r })],
      (p.2.1 = [] → exec p.1 s = .next s.advance)
        ∧ ∀ d rest, p.2.1 = d :: rest →
          let u := (p.2.2.2 s rest).setReg .a (d.setWidth 16) |>.advance
          exec p.1 s = .next
            (if rest = [] then { u with pid := putBit s.pid p.2.2.1 false } else u).selectLevel

/-- The switches of the interrupt, paging and address mode systems, LWCS and OPCOM (R386 to R389, R391 to R394, R397, R398):
one flag or the run state changes, and P; ION and PION select the level. WGLOB and RGLOB (R432, R433): the three global
pointers; that banks keep their low byte is the spec's own choice D37 (R46; log 42), and that PVL receives the level left is
D45. -/
def Obligations.SystemControl : Prop :=
  (∀ s : State, s.userMode = false →
      let n := s.advance
      exec .iof s = .next { n with ioni := false }
        ∧ exec .ion s = .next ({ n with ioni := true } : State).selectLevel
        ∧ exec .piof s = .next { n with ioni := false, poni := false }
        ∧ exec .pion s = .next ({ n with ioni := true, poni := true } : State).selectLevel
        ∧ exec .pof s = .next { n with poni := false } ∧ exec .pon s = .next { n with poni := true }
        ∧ exec .rex s = .next { n with sexi := false } ∧ exec .sex s = .next { n with sexi := true }
        ∧ exec .lwcs s = .next n ∧ exec .opcom s = .next { n with run := .opcom })
    ∧ (∀ s : State, s.userMode = false →
      exec .wglob s = .next { s.advance with
          stbnk := (s.reg .t).extractLsb' 0 8, stsrt := s.reg .a, cmbnk := (s.reg .d).extractLsb' 0 8 }
        ∧ ∃ t, exec .rglob s = .next t ∧ t.reg .t = s.stbnk.setWidth 16 ∧ t.reg .a = s.stsrt
          ∧ t.reg .d = s.cmbnk.setWidth 16 ∧ t.reg .p = s.reg .p + 1 ∧ s.Frame [.t, .a, .d, .p] [] [] t)

/-- WAIT (R390, R490, R500): with the interrupt system off it stops the machine, on level 0 too by the spec's own choice D40
(log 42); with it on, on level 0 it is ignored; else the level gives up its PID bit and the highest requesting level runs,
each level with its own registers, PVL the level left (D45). The model's choice: log 13. -/
def Obligations.Wait : Prop :=
  ∀ (num : BitVec 8) (s : State), s.userMode = false →
    (s.ioni = false → exec (.wait num) s = .next { s.advance with run := .stopped })
      ∧ (s.ioni = true → s.pil = 0 → exec (.wait num) s = .next s.advance)
      ∧ (s.ioni = true → s.pil ≠ 0 →
          exec (.wait num) s = .next ({ s.advance with pid := putBit s.pid s.pil.toNat false ||| s.deviceLines } :
            State).selectLevel)

/-! ### Physical memory -/

/-- The loads from physical memory (R396, R400, R401, R403, R435, R437, R439, R440, R444, R447, R450): the register (or K)
that each names, and nothing else. Banks are the low byte of their register by the spec's own choice D37; the order of bits
is a parameter (D41); log 42. An access that is refused ends the instruction before it has changed a register or a word
(R492; D20). The page-table range with four tables is the model's choice (log 56). -/
def Obligations.PhysicalLoads : Prop :=
  ∀ (k : BitVec 3) (s : State), s.memoryWf → s.userMode = false →
    let low (w : Word) : BitVec 8 := w.extractLsb' 0 8
    let tx := low (s.reg .t) ++ (s.reg .x + k.setWidth 16)
    let tab (bank : BitVec 8) := bank ++ (s.reg .b + k.setWidth 16)
    let byteAddress := low (s.reg .d) ++ (s.reg .t + (s.reg .x >>> 1))
    let bitAddress := low (s.reg .t) ++ (s.reg .x + (s.reg .a >>> 4))
    (∀ p ∈ [(Instr.exam, low (s.reg .a) ++ s.reg .d, Reg.t, fun v : Word => v), (.ldatx k, tx, .a, fun v => v),
          (.ldxtx k, tx, .x, fun v => v), (.ldbtx k, tx, .b, fun v => 0o177000 ||| 2 * v),
          (.lasb k, tab s.stbnk, .a, fun v => v), (.lacb k, tab s.cmbnk, .a, fun v => v),
          (.lxsb k, tab s.stbnk, .x, fun v => v), (.lxcb k, tab s.cmbnk, .x, fun v => v),
          (.rdusp, low (s.reg .t) ++ s.reg .x, .a, fun v => v),
          (.lbytp, byteAddress, .a, fun v =>
            (if (s.reg .x).getLsbD 0 then v.extractLsb' 0 8 else v.extractLsb' 8 8).setWidth 16)],
        (readPhys p.2.1 s).Ends p.1 s ∧ ∀ v u, readPhys p.2.1 s = .ok v u →
          ∃ t, exec p.1 s = .next t ∧ t.reg p.2.2.1 = p.2.2.2 v ∧ t.reg .p = s.reg .p + 1
            ∧ s.Frame [p.2.2.1, .p] [] [] t)
      ∧ (∀ v u, readPhys bitAddress s = .ok v u →
        ∃ t, exec .lbitp s = .next t
          ∧ t.flag .k = v.getLsbD (match s.cfg.bitIndex with
            | .fromBit0 => (s.reg .a).toNat % 16
            | .fromBit15 => 15 - (s.reg .a).toNat % 16)
          ∧ t.reg .p = s.reg .p + 1 ∧ s.Frame [.p] [.k] [] t)
      ∧ (∀ g h u w, resolvePhys .read tx s = .ok g u →
        resolvePhys .read (low (s.reg .t) ++ (s.reg .x + k.setWidth 16 + 1)) u = .ok h w →
        ∃ t, exec (.lddtx k) s = .next t ∧ (g ≠ .absent → t.reg .a = s.wordAt g) ∧ (h ≠ .absent → t.reg .d = s.wordAt h)
          ∧ t.reg .p = s.reg .p + 1 ∧ s.Frame [.a, .d, .p] [] [] t)
      ∧ (readPhys bitAddress s).Ends .lbitp s
      ∧ ((resolvePhys .read tx s).bind fun _ u =>
          resolvePhys .read (low (s.reg .t) ++ (s.reg .x + k.setWidth 16 + 1)) u).Ends (.lddtx k) s

/-- The stores to physical memory (R395, R404 to R406, R436, R438, R441, R442, R446, R448, R449): one word, for STDTX two,
at the bank and offset that each names; SBITP and SBYTP keep the rest of the word; TSETP loads A with the old word. Banks
are the low byte of their register by the spec's own choice D37; the order of bits is a parameter (D41); log 42. An access
that is refused ends the instruction before it has changed a register or a word (R492; D20). The page-table range with four
tables is the model's choice (log 56). -/
def Obligations.PhysicalStores : Prop :=
  ∀ (k : BitVec 3) (s : State), s.memoryWf → s.userMode = false →
    let low (w : Word) : BitVec 8 := w.extractLsb' 0 8
    let tx := low (s.reg .t) ++ (s.reg .x + k.setWidth 16)
    let tab (bank : BitVec 8) := bank ++ (s.reg .b + k.setWidth 16)
    let byteAddress := low (s.reg .d) ++ (s.reg .t + (s.reg .x >>> 1))
    let bitAddress := low (s.reg .t) ++ (s.reg .x + (s.reg .a >>> 4))
    let bitNumber := match s.cfg.bitIndex with
      | .fromBit0 => (s.reg .a).toNat % 16
      | .fromBit15 => 15 - (s.reg .a).toNat % 16
    (∀ p ∈ [(Instr.depo, low (s.reg .a) ++ s.reg .d, s.reg .t), (.statx k, tx, s.reg .a), (.stztx k, tx, 0),
          (.sasb k, tab s.stbnk, s.reg .a), (.sacb k, tab s.cmbnk, s.reg .a), (.szsb k, tab s.stbnk, 0),
          (.szcb k, tab s.cmbnk, 0)],
        (resolvePhys .write p.2.1 s).Ends p.1 s ∧ ∀ g u, resolvePhys .write p.2.1 s = .ok g u →
          ∃ t, exec p.1 s = .next t ∧ (g ≠ .absent → t.wordAt g = p.2.2) ∧ t.reg .p = s.reg .p + 1 ∧ s.Frame [.p] [] [g] t)
      ∧ (∀ g h u w, resolvePhys .write tx s = .ok g u →
        resolvePhys .write (low (s.reg .t) ++ (s.reg .x + k.setWidth 16 + 1)) u = .ok h w →
        ∃ t, exec (.stdtx k) s = .next t ∧ (g ≠ .absent → t.wordAt g = s.reg .a) ∧ (h ≠ .absent → t.wordAt h = s.reg .d)
          ∧ t.reg .p = s.reg .p + 1 ∧ s.Frame [.p] [] [g, h] t)
      ∧ (∀ v g, s.modifiesPhys bitAddress v g →
        ∃ t, exec .sbitp s = .next t ∧ (g ≠ .absent → t.wordAt g = putBit v bitNumber (s.flag .k))
          ∧ t.reg .p = s.reg .p + 1 ∧ s.Frame [.p] [] [g] t)
      ∧ (∀ v g, s.modifiesPhys byteAddress v g →
        ∃ t, exec .sbytp s = .next t
          ∧ (g ≠ .absent → t.wordAt g = if (s.reg .x).getLsbD 0 then v.extractLsb' 8 8 ++ low (s.reg .a)
            else low (s.reg .a) ++ v.extractLsb' 0 8)
          ∧ t.reg .p = s.reg .p + 1 ∧ s.Frame [.p] [] [g] t)
      ∧ (∀ v g, s.modifiesPhys (low (s.reg .t) ++ s.reg .x) v g →
        ∃ t, exec .tsetp s = .next t ∧ t.reg .a = v ∧ (g ≠ .absent → t.wordAt g = 0xFFFF) ∧ t.reg .p = s.reg .p + 1
          ∧ s.Frame [.a, .p] [] [g] t)
      ∧ ((resolvePhys .write tx s).bind fun _ u =>
          resolvePhys .write (low (s.reg .t) ++ (s.reg .x + k.setWidth 16 + 1)) u).Ends (.stdtx k) s
      ∧ ∀ p ∈ [(Instr.sbitp, bitAddress), (.sbytp, byteAddress), (.tsetp, low (s.reg .t) ++ s.reg .x)],
          ((resolvePhys .read p.2 s).bind fun _ u => resolvePhys .write p.2 u).Ends p.1 s

/-! ### SINTRAN III -/

/-- SETPT, CLEPT, CLEPU, CLPT, ENPT, REPT walk their list until X is zero or the poll for an interrupt stops them, with P
then still at the instruction (R421, R422, R426, R428, R429, R451, R492); they write A, D, B, X and memory, nothing else.
CLPT, ENPT and REPT poll after every element, the last too: a walk of n + 1 elements is a walk of one that ends with P at
the instruction, and a walk of n from there. SETPT, CLEPT and CLEPU poll before an element: with no poll to go they do
nothing, and a walk of n + 1 is a walk of one, which ends with X zero, and else a walk of n from there. That SETPT and CLEPT
can be interrupted is the spec's own choice D42. The model's choices: log 9; and that CLEPU runs at all is log 37 (R423
would refuse it). -/
def Obligations.ListWalks : Prop :=
  ∀ s : State, s.memoryWf → s.plain →
    (∀ i ∈ [Instr.setpt, .clept, .clepu, .clpt, .enpt, .rept],
      (s.reg .x = 0 → exec i s = .next s.advance)
        ∧ ∃ t, exec i s = .next t ∧ t.memoryWf
          ∧ (t.reg .p = s.reg .p + 1 ∧ t.reg .x = 0 ∨ t.reg .p = s.reg .p)
          ∧ (i ∈ [Instr.setpt, .clept, .clepu] → t.reg .x = 0 → t.reg .p = s.reg .p + 1)
          ∧ t.reg .t = s.reg .t ∧ t.reg .l = s.reg .l ∧ (∀ f, t.flag f = s.flag f)
          ∧ (∀ l, l ≠ s.pil → t.level l = s.level l)
          ∧ { t with levels := s.levels, mem := s.mem, ptab := s.ptab } = s)
      ∧ (∀ i ∈ [Instr.clpt, .enpt, .rept], ∀ n : Nat, 0 < n → s.reg .x ≠ 0 →
        let polls (s : State) (n : Nat) : State := { s with pollAfter := n }
        ∃ t u, exec i (polls s 1) = .next t ∧ t.reg .p = s.reg .p ∧ exec i (polls t n) = .next u
          ∧ exec i (polls s (n + 1)) = .next (polls u (n + 1)))
      ∧ (∀ i ∈ [Instr.setpt, .clept, .clepu], ∀ n : Nat, s.reg .x ≠ 0 →
        let polls (s : State) (n : Nat) : State := { s with pollAfter := n }
        exec i (polls s 0) = .next (polls s 0)
          ∧ ∃ t, exec i (polls s 1) = .next t
            ∧ (t.reg .x = 0 → exec i (polls s (n + 1)) = .next (polls t (n + 1)))
            ∧ (t.reg .x ≠ 0 → ∃ u, exec i (polls t n) = .next u ∧ exec i (polls s (n + 1)) = .next (polls u (n + 1))))

/-- One element of SETPT, ENPT and REPT (R421, R428, R429), the poll stopping the walk after it: protect word and page go
into the page-table entry of the element, X goes to the link; P stays, for SETPT, which polls before an element, only with
an element left. The model's choice: log 9; that SETPT polls at all is the spec's own choice D42. -/
def Obligations.EnterElement : Prop :=
  ∀ s : State, s.memoryWf → s.plain → s.pollAfter = 1 → s.reg .x ≠ 0 →
    let item (bank : BitVec 8) (k : Word) : PhysAddr := bank ++ (s.reg .x + k)
    let entered (i : Instr) (bank : BitVec 8) (regs : List Reg) (a b v : Word) (polledAfter : Bool) : Prop :=
      ∃ t, exec i s = .next t ∧ t.reg .a = a ∧ t.reg .b = b ∧ t.word b = a ∧ t.word (b + 1) = v
        ∧ t.reg .x = t.physWord (item bank 0) ∧ (.d ∈ regs → t.reg .d = v)
        ∧ t.reg .p = (if t.reg .x = 0 ∧ polledAfter = false then s.reg .p + 1 else s.reg .p)
        ∧ s.Frame regs [] [s.wordTarget b, s.wordTarget (b + 1)] t
    let bank := (s.reg .t).extractLsb' 0 8
    entered .setpt bank [.a, .d, .b, .x, .p] (s.physWord (item bank 2) &&& 0o173777)
        (0o177000 ||| 2 * s.physWord (item bank 1)) (s.physWord (item bank 3)) false
      ∧ entered .enpt s.cmbnk [.a, .b, .x, .p] (s.physWord (item s.cmbnk 2) &&& 0o173777)
        (2 * (s.physWord (item s.cmbnk 3) ||| 0o176000)) (s.reg .x >>> 2) true
      ∧ entered .rept s.cmbnk [.a, .b, .x, .p] (s.physWord (item s.cmbnk 2) &&& 0o073777)
        (2 * (s.physWord (item s.cmbnk 3) ||| 0o176000)) (s.reg .x >>> 2) true

/-- One element of CLEPT, CLEPU and CLPT (R422, R423, R426): a used entry is saved in the list element and cleared, for CLPT
as the sign of A says; CLEPU first copies its PGU bit to the page map (log 37); CLPT polls after the element and leaves P,
the others go on when X is zero. That CLEPT and CLEPU poll is the spec's own choice D42. The model's choices: logs 9, 37 and
39. -/
def Obligations.ClearElement : Prop :=
  ∀ s : State, s.memoryWf → s.plain → s.pollAfter = 1 → s.reg .x ≠ 0 →
    let item (bank : BitVec 8) (k : Word) : PhysAddr := bank ++ (s.reg .x + k)
    let bank := (s.reg .t).extractLsb' 0 8
    let index := s.physWord (item bank 1)
    let b := 0o177000 ||| 2 * index
    let a := s.word b
    let save := s.physTarget (item bank s.cfg.cleptDisp)
    let cleared := if a = 0 then [] else [save, s.wordTarget b]
    let page := Config.pageOfIndex index
    let mapOffset := s.reg .l + (page.extractLsb' 4 3).setWidth 16
    let map := s.physTarget ((if s.cfg.pageMapPhysical then bank else 0) ++ mapOffset)
    let mapBit := match s.cfg.pageMapOrder with
      | .fromBit0 => page.toNat % 16
      | .fromBit15 => 15 - page.toNat % 16
    let e := 2 * (s.physWord (item s.cmbnk 3) ||| 0o176000)
    let r := s.word e
    let keep := s.physTarget (item s.cmbnk 2)
    let saves := r ≠ 0 ∧ 0 ≤ (s.reg .a).toInt
    let clears := (s.reg .a).toInt < 0 ∨ (r ≠ 0 ∧ s.reg .a = 0)
    (∀ p ∈ [(Instr.clept, []), (.clepu, [map])],
        ∃ t, exec p.1 s = .next t ∧ t.reg .a = a ∧ t.reg .b = b
          ∧ (a ≠ 0 → t.word b = 0 ∧ (save ≠ s.wordTarget b → t.wordAt save = a))
          ∧ (p.1 = .clepu → map ∉ cleared → t.wordAt map = putBit (s.wordAt map) mapBit (a.getLsbD 11))
          ∧ t.reg .x = t.physWord (item bank 0) ∧ t.reg .p = (if t.reg .x = 0 then s.reg .p + 1 else s.reg .p)
          ∧ s.Frame [.a, .b, .x, .p] [] (p.2 ++ cleared) t)
      ∧ (∃ t, exec .clpt s = .next t ∧ t.reg .b = e ∧ (clears → t.word e = 0)
          ∧ (saves → (keep ≠ s.wordTarget e ∨ ¬clears) → t.wordAt keep = r)
          ∧ t.reg .x = t.physWord (item s.cmbnk 0) ∧ t.reg .p = s.reg .p
          ∧ s.Frame [.b, .x, .p] []
              ((if saves then [keep] else []) ++ (if clears then [s.wordTarget e] else [])) t)

/-- CNREK and CLNREENT (R424, R427; log 36): with a word that is not zero in the segment table, bitmap word after bitmap word,
the entries of its set bits are cleared, in the page table that bits 9-6 of the word name; a bitmap word is read after the
entries of the words before it are cleared (R111). No entry is cleared whose bit was not set at first. That CLNREENT runs as
CNREK is the spec's own choice D43; the eight words read are those of R427's reading (log 36). -/
def Obligations.ClearByBitmap : Prop :=
  ∀ s : State, s.memoryWf → s.plain →
    let w := s.physWord (s.stbnk ++ (s.reg .a + 2))
    let entry (k : Nat) : Target := s.wordTarget (0o174000 + 2 * (w &&& 0o1700) + BitVec.ofNat 16 (2 * k))
    let marked (u : State) (k : Nat) : Bool :=
      (u.physWord ((s.reg .t).extractLsb' 0 8 ++ (s.reg .x + BitVec.ofNat 16 (k / 16)))).getLsbD
        (match s.cfg.rtBitmapOrder with
          | .fromBit0 => k % 16
          | .fromBit15 => 15 - k % 16)
    let clearWord (u : State) (n : Nat) : State :=
      (((List.range 16).map fun j => 16 * n + j).filter (marked u)).foldl (fun v k => store (entry k) 0 v) u
    let cleared := if w = 0 then s else (List.range 8).foldl clearWord s
    let entries := if w = 0 then [] else (List.range 128).filter (marked s)
    ∀ i ∈ [Instr.cnrek, .clnreent],
      ∃ t, exec i s = .next t ∧ t.mem = cleared.mem ∧ t.ptab = cleared.ptab
        ∧ t.reg .a = (if s.cfg.cnrekLoadsA then w else s.reg .a) ∧ t.reg .p = s.reg .p + 1
        ∧ s.Frame [.a, .p] [] (entries.map entry) t

/-- INSPL and REMPL (R430, R431) on lists whose words are different words: X becomes the head of the page list; X is
unlinked. The model's choice: log 39. -/
def Obligations.PageLists : Prop :=
  ∀ s : State, s.memoryWf → s.plain →
    let x := s.reg .x
    let cm (a : Word) : Target := s.physTarget (s.cmbnk ++ a)
    let sg (a : Word) : Target := s.physTarget (s.stbnk ++ a)
    (let head := sg (s.reg .b + 7)
      let old := s.wordAt head
      let targets := [head, cm x, cm (x + 1), cm (x + 3)] ++ (if old = 0 then [] else [cm (old + 1)])
      ∃ t, exec .inspl s = .next t ∧ t.reg .p = s.reg .p + 1 ∧ s.Frame [.p] [] targets t
        ∧ (targets.Nodup → t.wordAt head = x ∧ t.wordAt (cm x) = old ∧ t.wordAt (cm (x + 3)) = s.reg .t
          ∧ t.wordAt (cm (x + 1)) = (if old = 0 then ((s.reg .b - s.stsrt) >>> 1) + 3 else s.wordAt (cm (old + 1)))
          ∧ (old ≠ 0 → t.wordAt (cm (old + 1)) = x)))
      ∧ (let next := s.wordAt (cm x)
        let back := s.wordAt (cm (x + 1))
        let prev := if back &&& 3 = 0 then cm back else sg (back * 2 + s.stsrt + 7)
        let targets := [prev, cm x, cm (x + 1)] ++ (if next = 0 then [] else [cm (next + 1)])
        ∃ t, exec .rempl s = .next t ∧ t.reg .p = s.reg .p + 1 ∧ s.Frame [.p] [] targets t
          ∧ (targets.Nodup → t.wordAt prev = next ∧ t.wordAt (cm x) = 0 ∧ t.wordAt (cm (x + 1)) = 0
            ∧ (next ≠ 0 → t.wordAt (cm (next + 1)) = back)))

/-- Where the spec says refuse: CHREENTPAGES (R425); the bit instructions on STS bits 8 to 15 (R301); the byte block
instructions with bit 13 of a descriptor set (R323); the decimal instructions with bit 14 of a descriptor set and on
BCD fields of odd length (R340, R341). The model's choices: logs 27, 28, 31 and 38. -/
def Obligations.StatedRefusals : Prop :=
  (∀ s : State, s.userMode = false → exec .chreentpages s = .refused .chreentpagesNotDescribed)
    ∧ (∀ (bn : BitVec 4) (s : State), 8 ≤ bn →
      ∀ i ∈ [Instr.bsetZro bn .sts, .bsetOne bn .sts, .bsetBcm bn .sts, .bsetBac bn .sts, .bskpZro bn .sts,
          .bskpOne bn .sts, .bskpBcm bn .sts, .bskpBac bn .sts, .bstc bn .sts, .bsta bn .sts, .bldc bn .sts, .blda bn .sts,
          .banc bn .sts, .band bn .sts, .borc bn .sts, .bora bn .sts],
        exec i s = .refused (.statusBitNotAddressable bn))
    ∧ (∀ s : State,
      ((s.reg .t).getLsbD 13 = true → exec .bfill s = .refused .byteDescriptorBit13)
        ∧ ((s.reg .d).getLsbD 13 = true ∨ (s.reg .t).getLsbD 13 = true →
            exec .movb s = .refused .byteDescriptorBit13 ∧ exec .movbf s = .refused .byteDescriptorBit13))
    ∧ (∀ s : State,
      ((s.reg .d).getLsbD 14 = true ∨ (s.reg .t).getLsbD 14 = true →
          ∀ i ∈ [Instr.addd, .subd, .comd, .pack, .upack, .shde], exec i s = .refused .decimalDescriptorBit14)
        ∧ ((s.reg .d).getLsbD 14 = false → (s.reg .t).getLsbD 14 = false →
          ((s.reg .d).getLsbD 0 = true →
              ∀ i ∈ [Instr.addd, .subd, .comd, .upack, .shde], exec i s = .refused .decimalOddLength)
          ∧ ((s.reg .t).getLsbD 0 = true →
              ∀ i ∈ [Instr.addd, .subd, .comd, .pack, .shde], exec i s = .refused .decimalOddLength)))
end

