-- ==== Sys2Proof/Laws/ByteBlock.lean ====
section
/-! SUPPORT. The fields of the byte block operands (spec/20_memory.md R93, spec/46_byte_block_version.md R323). -/

namespace Sys2Proof.Machine

@[simp] theorem byteSource_tbl (s : State) : (byteSource s).tbl = s.dataTable := rfl
@[simp] theorem byteSource_start (s : State) : (byteSource s).start = s.reg .a := rfl
@[simp] theorem byteSource_right (s : State) : (byteSource s).right = (s.reg .d).getLsbD 15 := rfl
@[simp] theorem byteSource_length (s : State) : (byteSource s).length = ((s.reg .d).extractLsb' 0 12).toNat := rfl
@[simp] theorem byteDest_tbl (s : State) : (byteDest s).tbl = s.dataTable := rfl
@[simp] theorem byteDest_start (s : State) : (byteDest s).start = s.reg .x := rfl
@[simp] theorem byteDest_right (s : State) : (byteDest s).right = (s.reg .t).getLsbD 15 := rfl
@[simp] theorem byteDest_length (s : State) : (byteDest s).length = ((s.reg .t).extractLsb' 0 12).toNat := rfl

end Sys2Proof.Machine
end

