-- ==== Sys2Proof/Laws/Devices.lean ====
section
/-! SUPPORT. What the withdrawal of requests by an I/O transfer changes. -/

namespace Sys2Proof.Machine

@[simp] theorem State.withdrawRequests_levels (s : State) : s.withdrawRequests.levels = s.levels := rfl
@[simp] theorem State.withdrawRequests_pil (s : State) : s.withdrawRequests.pil = s.pil := rfl
@[simp] theorem State.withdrawRequests_ioni (s : State) : s.withdrawRequests.ioni = s.ioni := rfl
@[simp] theorem State.withdrawRequests_pie (s : State) : s.withdrawRequests.pie = s.pie := rfl
@[simp] theorem State.withdrawRequests_pid (s : State) : s.withdrawRequests.pid = s.pid := rfl
@[simp] theorem State.withdrawRequests_mem (s : State) : s.withdrawRequests.mem = s.mem := rfl
@[simp] theorem State.withdrawRequests_ptab (s : State) : s.withdrawRequests.ptab = s.ptab := rfl

/-- Nothing but the requests changes. -/
theorem State.withdrawRequests_eq (s : State) :
    { s.withdrawRequests with req10 := s.req10, req11 := s.req11, req12 := s.req12, req13 := s.req13 } = s := rfl

/-- A level has a requesting device after a withdrawal only if it had one before. -/
theorem State.nil_keptRequests (s : State) (l : Level) : s.keptRequests l [] = [] := rfl

end Sys2Proof.Machine
end

