-- ==== Sys2Proof/Laws/Memory.lean ====
section
/-! SUPPORT. The laws of the memory: the canonical form is kept, a read after a write. -/

namespace Sys2Proof.Machine

theorem Memory.wfFrom_cons {lo bound a : Nat} {v : Byte} {m : List Host.Cell} :
    Memory.wfFrom lo bound ((a, v) :: m) = true ↔
      lo ≤ a ∧ a < bound ∧ v ≠ Memory.unlisted ∧ Memory.wfFrom (a + 1) bound m = true := by
  simp [Memory.wfFrom, and_assoc]

/-- A canonical list from a place on is canonical from any place before. -/
theorem Memory.wfFrom_mono {lo lo' bound : Nat} {m : List Host.Cell} (h : Memory.wfFrom lo bound m = true)
    (hl : lo' ≤ lo) : Memory.wfFrom lo' bound m = true := by
  cases m with
  | nil => rfl
  | cons c m =>
    obtain ⟨a, v⟩ := c
    rw [Memory.wfFrom_cons] at h ⊢
    exact ⟨by omega, h.2⟩

/-- Below its first place a canonical list reads as unlisted. -/
theorem Memory.get_below {lo bound k : Nat} {m : List Host.Cell} (h : Memory.wfFrom lo bound m = true) (hk : k < lo) :
    Memory.get m k = Memory.unlisted := by
  cases m with
  | nil => rfl
  | cons c m =>
    obtain ⟨a, v⟩ := c
    rw [Memory.wfFrom_cons] at h
    simp [Memory.get, show k < a by omega]

theorem Memory.wfFrom_set {bound k : Nat} {v : Byte} (hk : k < bound) :
    ∀ {lo : Nat} {m : List Host.Cell}, Memory.wfFrom lo bound m = true → lo ≤ k →
      Memory.wfFrom lo bound (Memory.set m k v) = true
  | lo, [], _, hl => by
    unfold Memory.set
    split
    · rfl
    · next hv => rw [Memory.wfFrom_cons]; exact ⟨hl, hk, hv, rfl⟩
  | lo, (a, w) :: m, h, hl => by
    have h' := Memory.wfFrom_cons.1 h
    unfold Memory.set
    split
    · split
      · exact h
      · next hka hv =>
        rw [Memory.wfFrom_cons]
        exact ⟨hl, hk, hv, Memory.wfFrom_cons.2 ⟨by omega, h'.2⟩⟩
    · split
      · next hka =>
        split
        · exact Memory.wfFrom_mono h'.2.2.2 (by omega)
        · next hv => rw [Memory.wfFrom_cons]; exact ⟨hl, hk, hv, by rw [hka]; exact h'.2.2.2⟩
      · rw [Memory.wfFrom_cons]
        exact ⟨h'.1, h'.2.1, h'.2.2.1, Memory.wfFrom_set hk h'.2.2.2 (by omega)⟩

/-- Writing a byte below the bound keeps the canonical form. -/
theorem Memory.wf_set {bound k : Nat} {v : Byte} {m : List Host.Cell} (h : Memory.wf bound m = true)
    (hk : k < bound) : Memory.wf bound (Memory.set m k v) = true :=
  Memory.wfFrom_set hk h (Nat.zero_le k)

/-- Writing a word below the bound keeps the canonical form. -/
theorem Memory.wf_setWord {bound i : Nat} {w : Word} {m : List Host.Cell} (h : Memory.wf bound m = true)
    (hi : 2 * i + 1 < bound) : Memory.wf bound (Memory.setWord m i w) = true :=
  Memory.wf_set (Memory.wf_set h (by omega)) hi

theorem Memory.get_set_from {bound k : Nat} {v : Byte} (j : Nat) :
    ∀ {lo : Nat} {m : List Host.Cell}, Memory.wfFrom lo bound m = true →
      Memory.get (Memory.set m k v) j = if j = k then v else Memory.get m j
  | lo, [], _ => by
    unfold Memory.set
    split
    · next hv => simp [Memory.get, hv]
    · simp only [Memory.get]
      split
      · simp [show j ≠ k by omega]
      · simp [eq_comm]
  | lo, (a, w) :: m, h => by
    have h' := Memory.wfFrom_cons.1 h
    unfold Memory.set
    split
    · next hka =>
      split
      · next hv =>
        split
        · next e => subst e; simp [Memory.get, hka, hv]
        · rfl
      · simp only [Memory.get]
        by_cases e : j = k
        · subst e; simp
        · by_cases hj : j < k
          · simp [hj, e, show j < a by omega]
          · simp [hj, e]
    · split
      · next hka hk2 =>
        subst hk2
        split
        · next hv =>
          by_cases e : j = k
          · subst e; simp [Memory.get_below h'.2.2.2 (Nat.lt_succ_self j), hv]
          · by_cases hj : j < k
            · simp [Memory.get, hj, e, Memory.get_below h'.2.2.2 (show j < k + 1 by omega)]
            · simp [Memory.get, hj, e]
        · by_cases e : j = k
          · subst e; simp [Memory.get]
          · simp [Memory.get, e]
      · next hka hk2 =>
        simp only [Memory.get]
        by_cases hj : j < a
        · simp [hj, show j ≠ k by omega]
        · by_cases e : a = j
          · simp [e, show j ≠ k by omega]
          · rw [if_neg hj, if_neg (Ne.symm e), if_neg hj, if_neg (Ne.symm e)]
            exact Memory.get_set_from j h'.2.2.2

/-- A byte after a byte is written: the byte written, and every other byte as it was. -/
theorem Memory.get_set {bound k : Nat} {v : Byte} {m : List Host.Cell} (h : Memory.wf bound m = true) (j : Nat) :
    Memory.get (Memory.set m k v) j = if j = k then v else Memory.get m j :=
  Memory.get_set_from j h

/-- Bytes outside a written word keep their value. -/
theorem Memory.get_setWord {bound i : Nat} {w : Word} {m : List Host.Cell} (h : Memory.wf bound m = true)
    (hi : 2 * i + 1 < bound) (j : Nat) :
    Memory.get (Memory.setWord m i w) j =
      if j = 2 * i + 1 then oddByte w else if j = 2 * i then evenByte w else Memory.get m j := by
  unfold Memory.setWord
  rw [Memory.get_set (bound := bound) (Memory.wf_set h (by omega)), Memory.get_set h]

theorem evenByte_append_oddByte (w : Word) : evenByte w ++ oddByte w = w := by
  unfold evenByte oddByte
  apply BitVec.eq_of_getLsbD_eq
  intro i hi
  simp only [BitVec.getLsbD_append, BitVec.getLsbD_extractLsb']
  by_cases h : i < 8
  · simp [h]
  · simp [h, show i - 8 < 8 by omega, show 8 + (i - 8) = i by omega]

/-- A word after a word is written. -/
theorem Memory.word_setWord {bound i : Nat} {w : Word} {m : List Host.Cell} (h : Memory.wf bound m = true)
    (hi : 2 * i + 1 < bound) (j : Nat) :
    Memory.word (Memory.setWord m i w) j = if j = i then w else Memory.word m j := by
  unfold Memory.word
  rw [Memory.get_setWord h hi, Memory.get_setWord h hi]
  by_cases e : j = i
  · subst e
    simp [evenByte_append_oddByte]
  · simp [e, show 2 * j ≠ 2 * i + 1 by omega, show 2 * j ≠ 2 * i by omega, show 2 * j + 1 ≠ 2 * i by omega]

theorem Memory.eq_of_get_from {bound : Nat} :
    ∀ {lo : Nat} {m n : List Host.Cell}, Memory.wfFrom lo bound m = true → Memory.wfFrom lo bound n = true →
      (∀ k, Memory.get m k = Memory.get n k) → m = n
  | _, [], [], _, _, _ => rfl
  | _, [], (a, v) :: n, _, hn, h => by
    have h' := Memory.wfFrom_cons.1 hn
    have := h a
    simp [Memory.get] at this
    exact absurd this.symm h'.2.2.1
  | _, (a, v) :: m, [], hm, _, h => by
    have h' := Memory.wfFrom_cons.1 hm
    have := h a
    simp [Memory.get] at this
    exact absurd this h'.2.2.1
  | lo, (a, v) :: m, (b, w) :: n, hm, hn, h => by
    have hm' := Memory.wfFrom_cons.1 hm
    have hn' := Memory.wfFrom_cons.1 hn
    have hab : a = b := by
      rcases Nat.lt_trichotomy a b with e | e | e
      · have := h a
        simp [Memory.get, e] at this
        exact absurd this hm'.2.2.1
      · exact e
      · have := h b
        simp [Memory.get, e] at this
        exact absurd this.symm hn'.2.2.1
    subst hab
    have hv := h a
    simp [Memory.get] at hv
    subst hv
    congr 1
    refine Memory.eq_of_get_from hm'.2.2.2 hn'.2.2.2 fun k => ?_
    rcases Nat.lt_trichotomy k a with e | e | e
    · rw [Memory.get_below hm'.2.2.2 (by omega), Memory.get_below hn'.2.2.2 (by omega)]
    · rw [Memory.get_below hm'.2.2.2 (by omega), Memory.get_below hn'.2.2.2 (by omega)]
    · have := h k
      unfold Memory.get at this
      rwa [if_neg (by omega), if_neg (by omega), if_neg (by omega), if_neg (by omega)] at this

/-- Memories in canonical form that read alike are equal data. -/
theorem Memory.eq_of_get {bound : Nat} {m n : List Host.Cell} (hm : Memory.wf bound m = true)
    (hn : Memory.wf bound n = true) (h : ∀ k, Memory.get m k = Memory.get n k) : m = n :=
  Memory.eq_of_get_from hm hn h

end Sys2Proof.Machine
end

