-- ==== Sys2Proof/Laws/State.lean ====
section
/-! SUPPORT. One lemma per field per update of the state, and the laws of registers and flags. -/

namespace Sys2Proof.Machine

@[simp] theorem State.setLevel_cfg (s : State) (l : Level) (r : LevelRegs) : (s.setLevel l r).cfg = s.cfg := rfl
@[simp] theorem State.setLevel_pil (s : State) (l : Level) (r : LevelRegs) : (s.setLevel l r).pil = s.pil := rfl
@[simp] theorem State.setLevel_ioni (s : State) (l : Level) (r : LevelRegs) : (s.setLevel l r).ioni = s.ioni := rfl
@[simp] theorem State.setLevel_poni (s : State) (l : Level) (r : LevelRegs) : (s.setLevel l r).poni = s.poni := rfl
@[simp] theorem State.setLevel_sexi (s : State) (l : Level) (r : LevelRegs) : (s.setLevel l r).sexi = s.sexi := rfl
@[simp] theorem State.setLevel_pid (s : State) (l : Level) (r : LevelRegs) : (s.setLevel l r).pid = s.pid := rfl
@[simp] theorem State.setLevel_pie (s : State) (l : Level) (r : LevelRegs) : (s.setLevel l r).pie = s.pie := rfl
@[simp] theorem State.setLevel_iic (s : State) (l : Level) (r : LevelRegs) : (s.setLevel l r).iic = s.iic := rfl
@[simp] theorem State.setLevel_iie (s : State) (l : Level) (r : LevelRegs) : (s.setLevel l r).iie = s.iie := rfl
@[simp] theorem State.setLevel_pvl (s : State) (l : Level) (r : LevelRegs) : (s.setLevel l r).pvl = s.pvl := rfl
@[simp] theorem State.setLevel_pcr (s : State) (l : Level) (r : LevelRegs) : (s.setLevel l r).pcr = s.pcr := rfl
@[simp] theorem State.setLevel_pgs (s : State) (l : Level) (r : LevelRegs) : (s.setLevel l r).pgs = s.pgs := rfl
@[simp] theorem State.setLevel_panel (s : State) (l : Level) (r : LevelRegs) : (s.setLevel l r).panel = s.panel := rfl
@[simp] theorem State.setLevel_opr (s : State) (l : Level) (r : LevelRegs) : (s.setLevel l r).opr = s.opr := rfl
@[simp] theorem State.setLevel_lmp (s : State) (l : Level) (r : LevelRegs) : (s.setLevel l r).lmp = s.lmp := rfl
@[simp] theorem State.setLevel_pes (s : State) (l : Level) (r : LevelRegs) : (s.setLevel l r).pes = s.pes := rfl
@[simp] theorem State.setLevel_pea (s : State) (l : Level) (r : LevelRegs) : (s.setLevel l r).pea = s.pea := rfl
@[simp] theorem State.setLevel_peLocked (s : State) (l : Level) (r : LevelRegs) : (s.setLevel l r).peLocked = s.peLocked := rfl
@[simp] theorem State.setLevel_eccr (s : State) (l : Level) (r : LevelRegs) : (s.setLevel l r).eccr = s.eccr := rfl
@[simp] theorem State.setLevel_cs (s : State) (l : Level) (r : LevelRegs) : (s.setLevel l r).cs = s.cs := rfl
@[simp] theorem State.setLevel_stbnk (s : State) (l : Level) (r : LevelRegs) : (s.setLevel l r).stbnk = s.stbnk := rfl
@[simp] theorem State.setLevel_stsrt (s : State) (l : Level) (r : LevelRegs) : (s.setLevel l r).stsrt = s.stsrt := rfl
@[simp] theorem State.setLevel_cmbnk (s : State) (l : Level) (r : LevelRegs) : (s.setLevel l r).cmbnk = s.cmbnk := rfl
@[simp] theorem State.setLevel_run (s : State) (l : Level) (r : LevelRegs) : (s.setLevel l r).run = s.run := rfl
@[simp] theorem State.setLevel_mem (s : State) (l : Level) (r : LevelRegs) : (s.setLevel l r).mem = s.mem := rfl
@[simp] theorem State.setLevel_ptab (s : State) (l : Level) (r : LevelRegs) : (s.setLevel l r).ptab = s.ptab := rfl
@[simp] theorem State.setLevel_badWords (s : State) (l : Level) (r : LevelRegs) : (s.setLevel l r).badWords = s.badWords := rfl
@[simp] theorem State.setLevel_req10 (s : State) (l : Level) (r : LevelRegs) : (s.setLevel l r).req10 = s.req10 := rfl
@[simp] theorem State.setLevel_req11 (s : State) (l : Level) (r : LevelRegs) : (s.setLevel l r).req11 = s.req11 := rfl
@[simp] theorem State.setLevel_req12 (s : State) (l : Level) (r : LevelRegs) : (s.setLevel l r).req12 = s.req12 := rfl
@[simp] theorem State.setLevel_req13 (s : State) (l : Level) (r : LevelRegs) : (s.setLevel l r).req13 = s.req13 := rfl
@[simp] theorem State.setLevel_ioHistory (s : State) (l : Level) (r : LevelRegs) : (s.setLevel l r).ioHistory = s.ioHistory := rfl
@[simp] theorem State.setLevel_free (s : State) (l : Level) (r : LevelRegs) : (s.setLevel l r).free = s.free := rfl
@[simp] theorem State.setLevel_pollAfter (s : State) (l : Level) (r : LevelRegs) : (s.setLevel l r).pollAfter = s.pollAfter := rfl

@[simp] theorem State.setReg_cfg (s : State) (c : Reg) (v : Word) : (s.setReg c v).cfg = s.cfg := rfl
@[simp] theorem State.setReg_pil (s : State) (c : Reg) (v : Word) : (s.setReg c v).pil = s.pil := rfl
@[simp] theorem State.setReg_ioni (s : State) (c : Reg) (v : Word) : (s.setReg c v).ioni = s.ioni := rfl
@[simp] theorem State.setReg_poni (s : State) (c : Reg) (v : Word) : (s.setReg c v).poni = s.poni := rfl
@[simp] theorem State.setReg_sexi (s : State) (c : Reg) (v : Word) : (s.setReg c v).sexi = s.sexi := rfl
@[simp] theorem State.setReg_pid (s : State) (c : Reg) (v : Word) : (s.setReg c v).pid = s.pid := rfl
@[simp] theorem State.setReg_pie (s : State) (c : Reg) (v : Word) : (s.setReg c v).pie = s.pie := rfl
@[simp] theorem State.setReg_iic (s : State) (c : Reg) (v : Word) : (s.setReg c v).iic = s.iic := rfl
@[simp] theorem State.setReg_iie (s : State) (c : Reg) (v : Word) : (s.setReg c v).iie = s.iie := rfl
@[simp] theorem State.setReg_pvl (s : State) (c : Reg) (v : Word) : (s.setReg c v).pvl = s.pvl := rfl
@[simp] theorem State.setReg_pcr (s : State) (c : Reg) (v : Word) : (s.setReg c v).pcr = s.pcr := rfl
@[simp] theorem State.setReg_pgs (s : State) (c : Reg) (v : Word) : (s.setReg c v).pgs = s.pgs := rfl
@[simp] theorem State.setReg_panel (s : State) (c : Reg) (v : Word) : (s.setReg c v).panel = s.panel := rfl
@[simp] theorem State.setReg_opr (s : State) (c : Reg) (v : Word) : (s.setReg c v).opr = s.opr := rfl
@[simp] theorem State.setReg_lmp (s : State) (c : Reg) (v : Word) : (s.setReg c v).lmp = s.lmp := rfl
@[simp] theorem State.setReg_pes (s : State) (c : Reg) (v : Word) : (s.setReg c v).pes = s.pes := rfl
@[simp] theorem State.setReg_pea (s : State) (c : Reg) (v : Word) : (s.setReg c v).pea = s.pea := rfl
@[simp] theorem State.setReg_peLocked (s : State) (c : Reg) (v : Word) : (s.setReg c v).peLocked = s.peLocked := rfl
@[simp] theorem State.setReg_eccr (s : State) (c : Reg) (v : Word) : (s.setReg c v).eccr = s.eccr := rfl
@[simp] theorem State.setReg_cs (s : State) (c : Reg) (v : Word) : (s.setReg c v).cs = s.cs := rfl
@[simp] theorem State.setReg_stbnk (s : State) (c : Reg) (v : Word) : (s.setReg c v).stbnk = s.stbnk := rfl
@[simp] theorem State.setReg_stsrt (s : State) (c : Reg) (v : Word) : (s.setReg c v).stsrt = s.stsrt := rfl
@[simp] theorem State.setReg_cmbnk (s : State) (c : Reg) (v : Word) : (s.setReg c v).cmbnk = s.cmbnk := rfl
@[simp] theorem State.setReg_run (s : State) (c : Reg) (v : Word) : (s.setReg c v).run = s.run := rfl
@[simp] theorem State.setReg_mem (s : State) (c : Reg) (v : Word) : (s.setReg c v).mem = s.mem := rfl
@[simp] theorem State.setReg_ptab (s : State) (c : Reg) (v : Word) : (s.setReg c v).ptab = s.ptab := rfl
@[simp] theorem State.setReg_badWords (s : State) (c : Reg) (v : Word) : (s.setReg c v).badWords = s.badWords := rfl
@[simp] theorem State.setReg_req10 (s : State) (c : Reg) (v : Word) : (s.setReg c v).req10 = s.req10 := rfl
@[simp] theorem State.setReg_req11 (s : State) (c : Reg) (v : Word) : (s.setReg c v).req11 = s.req11 := rfl
@[simp] theorem State.setReg_req12 (s : State) (c : Reg) (v : Word) : (s.setReg c v).req12 = s.req12 := rfl
@[simp] theorem State.setReg_req13 (s : State) (c : Reg) (v : Word) : (s.setReg c v).req13 = s.req13 := rfl
@[simp] theorem State.setReg_ioHistory (s : State) (c : Reg) (v : Word) : (s.setReg c v).ioHistory = s.ioHistory := rfl
@[simp] theorem State.setReg_free (s : State) (c : Reg) (v : Word) : (s.setReg c v).free = s.free := rfl
@[simp] theorem State.setReg_pollAfter (s : State) (c : Reg) (v : Word) : (s.setReg c v).pollAfter = s.pollAfter := rfl

@[simp] theorem State.setStsLow_cfg (s : State) (v : Byte) : (s.setStsLow v).cfg = s.cfg := rfl
@[simp] theorem State.setStsLow_pil (s : State) (v : Byte) : (s.setStsLow v).pil = s.pil := rfl
@[simp] theorem State.setStsLow_ioni (s : State) (v : Byte) : (s.setStsLow v).ioni = s.ioni := rfl
@[simp] theorem State.setStsLow_poni (s : State) (v : Byte) : (s.setStsLow v).poni = s.poni := rfl
@[simp] theorem State.setStsLow_sexi (s : State) (v : Byte) : (s.setStsLow v).sexi = s.sexi := rfl
@[simp] theorem State.setStsLow_pid (s : State) (v : Byte) : (s.setStsLow v).pid = s.pid := rfl
@[simp] theorem State.setStsLow_pie (s : State) (v : Byte) : (s.setStsLow v).pie = s.pie := rfl
@[simp] theorem State.setStsLow_iic (s : State) (v : Byte) : (s.setStsLow v).iic = s.iic := rfl
@[simp] theorem State.setStsLow_iie (s : State) (v : Byte) : (s.setStsLow v).iie = s.iie := rfl
@[simp] theorem State.setStsLow_pvl (s : State) (v : Byte) : (s.setStsLow v).pvl = s.pvl := rfl
@[simp] theorem State.setStsLow_pcr (s : State) (v : Byte) : (s.setStsLow v).pcr = s.pcr := rfl
@[simp] theorem State.setStsLow_pgs (s : State) (v : Byte) : (s.setStsLow v).pgs = s.pgs := rfl
@[simp] theorem State.setStsLow_panel (s : State) (v : Byte) : (s.setStsLow v).panel = s.panel := rfl
@[simp] theorem State.setStsLow_opr (s : State) (v : Byte) : (s.setStsLow v).opr = s.opr := rfl
@[simp] theorem State.setStsLow_lmp (s : State) (v : Byte) : (s.setStsLow v).lmp = s.lmp := rfl
@[simp] theorem State.setStsLow_pes (s : State) (v : Byte) : (s.setStsLow v).pes = s.pes := rfl
@[simp] theorem State.setStsLow_pea (s : State) (v : Byte) : (s.setStsLow v).pea = s.pea := rfl
@[simp] theorem State.setStsLow_peLocked (s : State) (v : Byte) : (s.setStsLow v).peLocked = s.peLocked := rfl
@[simp] theorem State.setStsLow_eccr (s : State) (v : Byte) : (s.setStsLow v).eccr = s.eccr := rfl
@[simp] theorem State.setStsLow_cs (s : State) (v : Byte) : (s.setStsLow v).cs = s.cs := rfl
@[simp] theorem State.setStsLow_stbnk (s : State) (v : Byte) : (s.setStsLow v).stbnk = s.stbnk := rfl
@[simp] theorem State.setStsLow_stsrt (s : State) (v : Byte) : (s.setStsLow v).stsrt = s.stsrt := rfl
@[simp] theorem State.setStsLow_cmbnk (s : State) (v : Byte) : (s.setStsLow v).cmbnk = s.cmbnk := rfl
@[simp] theorem State.setStsLow_run (s : State) (v : Byte) : (s.setStsLow v).run = s.run := rfl
@[simp] theorem State.setStsLow_mem (s : State) (v : Byte) : (s.setStsLow v).mem = s.mem := rfl
@[simp] theorem State.setStsLow_ptab (s : State) (v : Byte) : (s.setStsLow v).ptab = s.ptab := rfl
@[simp] theorem State.setStsLow_badWords (s : State) (v : Byte) : (s.setStsLow v).badWords = s.badWords := rfl
@[simp] theorem State.setStsLow_req10 (s : State) (v : Byte) : (s.setStsLow v).req10 = s.req10 := rfl
@[simp] theorem State.setStsLow_req11 (s : State) (v : Byte) : (s.setStsLow v).req11 = s.req11 := rfl
@[simp] theorem State.setStsLow_req12 (s : State) (v : Byte) : (s.setStsLow v).req12 = s.req12 := rfl
@[simp] theorem State.setStsLow_req13 (s : State) (v : Byte) : (s.setStsLow v).req13 = s.req13 := rfl
@[simp] theorem State.setStsLow_ioHistory (s : State) (v : Byte) : (s.setStsLow v).ioHistory = s.ioHistory := rfl
@[simp] theorem State.setStsLow_free (s : State) (v : Byte) : (s.setStsLow v).free = s.free := rfl
@[simp] theorem State.setStsLow_pollAfter (s : State) (v : Byte) : (s.setStsLow v).pollAfter = s.pollAfter := rfl

@[simp] theorem State.setFlag_cfg (s : State) (f : Flag) (b : Bool) : (s.setFlag f b).cfg = s.cfg := rfl
@[simp] theorem State.setFlag_pil (s : State) (f : Flag) (b : Bool) : (s.setFlag f b).pil = s.pil := rfl
@[simp] theorem State.setFlag_ioni (s : State) (f : Flag) (b : Bool) : (s.setFlag f b).ioni = s.ioni := rfl
@[simp] theorem State.setFlag_poni (s : State) (f : Flag) (b : Bool) : (s.setFlag f b).poni = s.poni := rfl
@[simp] theorem State.setFlag_sexi (s : State) (f : Flag) (b : Bool) : (s.setFlag f b).sexi = s.sexi := rfl
@[simp] theorem State.setFlag_pid (s : State) (f : Flag) (b : Bool) : (s.setFlag f b).pid = s.pid := rfl
@[simp] theorem State.setFlag_pie (s : State) (f : Flag) (b : Bool) : (s.setFlag f b).pie = s.pie := rfl
@[simp] theorem State.setFlag_iic (s : State) (f : Flag) (b : Bool) : (s.setFlag f b).iic = s.iic := rfl
@[simp] theorem State.setFlag_iie (s : State) (f : Flag) (b : Bool) : (s.setFlag f b).iie = s.iie := rfl
@[simp] theorem State.setFlag_pvl (s : State) (f : Flag) (b : Bool) : (s.setFlag f b).pvl = s.pvl := rfl
@[simp] theorem State.setFlag_pcr (s : State) (f : Flag) (b : Bool) : (s.setFlag f b).pcr = s.pcr := rfl
@[simp] theorem State.setFlag_pgs (s : State) (f : Flag) (b : Bool) : (s.setFlag f b).pgs = s.pgs := rfl
@[simp] theorem State.setFlag_panel (s : State) (f : Flag) (b : Bool) : (s.setFlag f b).panel = s.panel := rfl
@[simp] theorem State.setFlag_opr (s : State) (f : Flag) (b : Bool) : (s.setFlag f b).opr = s.opr := rfl
@[simp] theorem State.setFlag_lmp (s : State) (f : Flag) (b : Bool) : (s.setFlag f b).lmp = s.lmp := rfl
@[simp] theorem State.setFlag_pes (s : State) (f : Flag) (b : Bool) : (s.setFlag f b).pes = s.pes := rfl
@[simp] theorem State.setFlag_pea (s : State) (f : Flag) (b : Bool) : (s.setFlag f b).pea = s.pea := rfl
@[simp] theorem State.setFlag_peLocked (s : State) (f : Flag) (b : Bool) : (s.setFlag f b).peLocked = s.peLocked := rfl
@[simp] theorem State.setFlag_eccr (s : State) (f : Flag) (b : Bool) : (s.setFlag f b).eccr = s.eccr := rfl
@[simp] theorem State.setFlag_cs (s : State) (f : Flag) (b : Bool) : (s.setFlag f b).cs = s.cs := rfl
@[simp] theorem State.setFlag_stbnk (s : State) (f : Flag) (b : Bool) : (s.setFlag f b).stbnk = s.stbnk := rfl
@[simp] theorem State.setFlag_stsrt (s : State) (f : Flag) (b : Bool) : (s.setFlag f b).stsrt = s.stsrt := rfl
@[simp] theorem State.setFlag_cmbnk (s : State) (f : Flag) (b : Bool) : (s.setFlag f b).cmbnk = s.cmbnk := rfl
@[simp] theorem State.setFlag_run (s : State) (f : Flag) (b : Bool) : (s.setFlag f b).run = s.run := rfl
@[simp] theorem State.setFlag_mem (s : State) (f : Flag) (b : Bool) : (s.setFlag f b).mem = s.mem := rfl
@[simp] theorem State.setFlag_ptab (s : State) (f : Flag) (b : Bool) : (s.setFlag f b).ptab = s.ptab := rfl
@[simp] theorem State.setFlag_badWords (s : State) (f : Flag) (b : Bool) : (s.setFlag f b).badWords = s.badWords := rfl
@[simp] theorem State.setFlag_req10 (s : State) (f : Flag) (b : Bool) : (s.setFlag f b).req10 = s.req10 := rfl
@[simp] theorem State.setFlag_req11 (s : State) (f : Flag) (b : Bool) : (s.setFlag f b).req11 = s.req11 := rfl
@[simp] theorem State.setFlag_req12 (s : State) (f : Flag) (b : Bool) : (s.setFlag f b).req12 = s.req12 := rfl
@[simp] theorem State.setFlag_req13 (s : State) (f : Flag) (b : Bool) : (s.setFlag f b).req13 = s.req13 := rfl
@[simp] theorem State.setFlag_ioHistory (s : State) (f : Flag) (b : Bool) : (s.setFlag f b).ioHistory = s.ioHistory := rfl
@[simp] theorem State.setFlag_free (s : State) (f : Flag) (b : Bool) : (s.setFlag f b).free = s.free := rfl
@[simp] theorem State.setFlag_pollAfter (s : State) (f : Flag) (b : Bool) : (s.setFlag f b).pollAfter = s.pollAfter := rfl

@[simp] theorem State.advance_cfg (s : State) : (s.advance).cfg = s.cfg := rfl
@[simp] theorem State.advance_pil (s : State) : (s.advance).pil = s.pil := rfl
@[simp] theorem State.advance_ioni (s : State) : (s.advance).ioni = s.ioni := rfl
@[simp] theorem State.advance_poni (s : State) : (s.advance).poni = s.poni := rfl
@[simp] theorem State.advance_sexi (s : State) : (s.advance).sexi = s.sexi := rfl
@[simp] theorem State.advance_pid (s : State) : (s.advance).pid = s.pid := rfl
@[simp] theorem State.advance_pie (s : State) : (s.advance).pie = s.pie := rfl
@[simp] theorem State.advance_iic (s : State) : (s.advance).iic = s.iic := rfl
@[simp] theorem State.advance_iie (s : State) : (s.advance).iie = s.iie := rfl
@[simp] theorem State.advance_pvl (s : State) : (s.advance).pvl = s.pvl := rfl
@[simp] theorem State.advance_pcr (s : State) : (s.advance).pcr = s.pcr := rfl
@[simp] theorem State.advance_pgs (s : State) : (s.advance).pgs = s.pgs := rfl
@[simp] theorem State.advance_panel (s : State) : (s.advance).panel = s.panel := rfl
@[simp] theorem State.advance_opr (s : State) : (s.advance).opr = s.opr := rfl
@[simp] theorem State.advance_lmp (s : State) : (s.advance).lmp = s.lmp := rfl
@[simp] theorem State.advance_pes (s : State) : (s.advance).pes = s.pes := rfl
@[simp] theorem State.advance_pea (s : State) : (s.advance).pea = s.pea := rfl
@[simp] theorem State.advance_peLocked (s : State) : (s.advance).peLocked = s.peLocked := rfl
@[simp] theorem State.advance_eccr (s : State) : (s.advance).eccr = s.eccr := rfl
@[simp] theorem State.advance_cs (s : State) : (s.advance).cs = s.cs := rfl
@[simp] theorem State.advance_stbnk (s : State) : (s.advance).stbnk = s.stbnk := rfl
@[simp] theorem State.advance_stsrt (s : State) : (s.advance).stsrt = s.stsrt := rfl
@[simp] theorem State.advance_cmbnk (s : State) : (s.advance).cmbnk = s.cmbnk := rfl
@[simp] theorem State.advance_run (s : State) : (s.advance).run = s.run := rfl
@[simp] theorem State.advance_mem (s : State) : (s.advance).mem = s.mem := rfl
@[simp] theorem State.advance_ptab (s : State) : (s.advance).ptab = s.ptab := rfl
@[simp] theorem State.advance_badWords (s : State) : (s.advance).badWords = s.badWords := rfl
@[simp] theorem State.advance_req10 (s : State) : (s.advance).req10 = s.req10 := rfl
@[simp] theorem State.advance_req11 (s : State) : (s.advance).req11 = s.req11 := rfl
@[simp] theorem State.advance_req12 (s : State) : (s.advance).req12 = s.req12 := rfl
@[simp] theorem State.advance_req13 (s : State) : (s.advance).req13 = s.req13 := rfl
@[simp] theorem State.advance_ioHistory (s : State) : (s.advance).ioHistory = s.ioHistory := rfl
@[simp] theorem State.advance_free (s : State) : (s.advance).free = s.free := rfl
@[simp] theorem State.advance_pollAfter (s : State) : (s.advance).pollAfter = s.pollAfter := rfl

@[simp] theorem State.skip_cfg (s : State) : (s.skip).cfg = s.cfg := rfl
@[simp] theorem State.skip_pil (s : State) : (s.skip).pil = s.pil := rfl
@[simp] theorem State.skip_ioni (s : State) : (s.skip).ioni = s.ioni := rfl
@[simp] theorem State.skip_poni (s : State) : (s.skip).poni = s.poni := rfl
@[simp] theorem State.skip_sexi (s : State) : (s.skip).sexi = s.sexi := rfl
@[simp] theorem State.skip_pid (s : State) : (s.skip).pid = s.pid := rfl
@[simp] theorem State.skip_pie (s : State) : (s.skip).pie = s.pie := rfl
@[simp] theorem State.skip_iic (s : State) : (s.skip).iic = s.iic := rfl
@[simp] theorem State.skip_iie (s : State) : (s.skip).iie = s.iie := rfl
@[simp] theorem State.skip_pvl (s : State) : (s.skip).pvl = s.pvl := rfl
@[simp] theorem State.skip_pcr (s : State) : (s.skip).pcr = s.pcr := rfl
@[simp] theorem State.skip_pgs (s : State) : (s.skip).pgs = s.pgs := rfl
@[simp] theorem State.skip_panel (s : State) : (s.skip).panel = s.panel := rfl
@[simp] theorem State.skip_opr (s : State) : (s.skip).opr = s.opr := rfl
@[simp] theorem State.skip_lmp (s : State) : (s.skip).lmp = s.lmp := rfl
@[simp] theorem State.skip_pes (s : State) : (s.skip).pes = s.pes := rfl
@[simp] theorem State.skip_pea (s : State) : (s.skip).pea = s.pea := rfl
@[simp] theorem State.skip_peLocked (s : State) : (s.skip).peLocked = s.peLocked := rfl
@[simp] theorem State.skip_eccr (s : State) : (s.skip).eccr = s.eccr := rfl
@[simp] theorem State.skip_cs (s : State) : (s.skip).cs = s.cs := rfl
@[simp] theorem State.skip_stbnk (s : State) : (s.skip).stbnk = s.stbnk := rfl
@[simp] theorem State.skip_stsrt (s : State) : (s.skip).stsrt = s.stsrt := rfl
@[simp] theorem State.skip_cmbnk (s : State) : (s.skip).cmbnk = s.cmbnk := rfl
@[simp] theorem State.skip_run (s : State) : (s.skip).run = s.run := rfl
@[simp] theorem State.skip_mem (s : State) : (s.skip).mem = s.mem := rfl
@[simp] theorem State.skip_ptab (s : State) : (s.skip).ptab = s.ptab := rfl
@[simp] theorem State.skip_badWords (s : State) : (s.skip).badWords = s.badWords := rfl
@[simp] theorem State.skip_req10 (s : State) : (s.skip).req10 = s.req10 := rfl
@[simp] theorem State.skip_req11 (s : State) : (s.skip).req11 = s.req11 := rfl
@[simp] theorem State.skip_req12 (s : State) : (s.skip).req12 = s.req12 := rfl
@[simp] theorem State.skip_req13 (s : State) : (s.skip).req13 = s.req13 := rfl
@[simp] theorem State.skip_ioHistory (s : State) : (s.skip).ioHistory = s.ioHistory := rfl
@[simp] theorem State.skip_free (s : State) : (s.skip).free = s.free := rfl
@[simp] theorem State.skip_pollAfter (s : State) : (s.skip).pollAfter = s.pollAfter := rfl

@[simp] theorem State.jump_cfg (s : State) (a : Word) : (s.jump a).cfg = s.cfg := rfl
@[simp] theorem State.jump_pil (s : State) (a : Word) : (s.jump a).pil = s.pil := rfl
@[simp] theorem State.jump_ioni (s : State) (a : Word) : (s.jump a).ioni = s.ioni := rfl
@[simp] theorem State.jump_poni (s : State) (a : Word) : (s.jump a).poni = s.poni := rfl
@[simp] theorem State.jump_sexi (s : State) (a : Word) : (s.jump a).sexi = s.sexi := rfl
@[simp] theorem State.jump_pid (s : State) (a : Word) : (s.jump a).pid = s.pid := rfl
@[simp] theorem State.jump_pie (s : State) (a : Word) : (s.jump a).pie = s.pie := rfl
@[simp] theorem State.jump_iic (s : State) (a : Word) : (s.jump a).iic = s.iic := rfl
@[simp] theorem State.jump_iie (s : State) (a : Word) : (s.jump a).iie = s.iie := rfl
@[simp] theorem State.jump_pvl (s : State) (a : Word) : (s.jump a).pvl = s.pvl := rfl
@[simp] theorem State.jump_pcr (s : State) (a : Word) : (s.jump a).pcr = s.pcr := rfl
@[simp] theorem State.jump_pgs (s : State) (a : Word) : (s.jump a).pgs = s.pgs := rfl
@[simp] theorem State.jump_panel (s : State) (a : Word) : (s.jump a).panel = s.panel := rfl
@[simp] theorem State.jump_opr (s : State) (a : Word) : (s.jump a).opr = s.opr := rfl
@[simp] theorem State.jump_lmp (s : State) (a : Word) : (s.jump a).lmp = s.lmp := rfl
@[simp] theorem State.jump_pes (s : State) (a : Word) : (s.jump a).pes = s.pes := rfl
@[simp] theorem State.jump_pea (s : State) (a : Word) : (s.jump a).pea = s.pea := rfl
@[simp] theorem State.jump_peLocked (s : State) (a : Word) : (s.jump a).peLocked = s.peLocked := rfl
@[simp] theorem State.jump_eccr (s : State) (a : Word) : (s.jump a).eccr = s.eccr := rfl
@[simp] theorem State.jump_cs (s : State) (a : Word) : (s.jump a).cs = s.cs := rfl
@[simp] theorem State.jump_stbnk (s : State) (a : Word) : (s.jump a).stbnk = s.stbnk := rfl
@[simp] theorem State.jump_stsrt (s : State) (a : Word) : (s.jump a).stsrt = s.stsrt := rfl
@[simp] theorem State.jump_cmbnk (s : State) (a : Word) : (s.jump a).cmbnk = s.cmbnk := rfl
@[simp] theorem State.jump_run (s : State) (a : Word) : (s.jump a).run = s.run := rfl
@[simp] theorem State.jump_mem (s : State) (a : Word) : (s.jump a).mem = s.mem := rfl
@[simp] theorem State.jump_ptab (s : State) (a : Word) : (s.jump a).ptab = s.ptab := rfl
@[simp] theorem State.jump_badWords (s : State) (a : Word) : (s.jump a).badWords = s.badWords := rfl
@[simp] theorem State.jump_req10 (s : State) (a : Word) : (s.jump a).req10 = s.req10 := rfl
@[simp] theorem State.jump_req11 (s : State) (a : Word) : (s.jump a).req11 = s.req11 := rfl
@[simp] theorem State.jump_req12 (s : State) (a : Word) : (s.jump a).req12 = s.req12 := rfl
@[simp] theorem State.jump_req13 (s : State) (a : Word) : (s.jump a).req13 = s.req13 := rfl
@[simp] theorem State.jump_ioHistory (s : State) (a : Word) : (s.jump a).ioHistory = s.ioHistory := rfl
@[simp] theorem State.jump_free (s : State) (a : Word) : (s.jump a).free = s.free := rfl
@[simp] theorem State.jump_pollAfter (s : State) (a : Word) : (s.jump a).pollAfter = s.pollAfter := rfl

@[simp] theorem State.changeLevel_cfg (s : State) (n : Level) : (s.changeLevel n).cfg = s.cfg := rfl
@[simp] theorem State.changeLevel_ioni (s : State) (n : Level) : (s.changeLevel n).ioni = s.ioni := rfl
@[simp] theorem State.changeLevel_poni (s : State) (n : Level) : (s.changeLevel n).poni = s.poni := rfl
@[simp] theorem State.changeLevel_sexi (s : State) (n : Level) : (s.changeLevel n).sexi = s.sexi := rfl
@[simp] theorem State.changeLevel_pid (s : State) (n : Level) : (s.changeLevel n).pid = s.pid := rfl
@[simp] theorem State.changeLevel_pie (s : State) (n : Level) : (s.changeLevel n).pie = s.pie := rfl
@[simp] theorem State.changeLevel_iic (s : State) (n : Level) : (s.changeLevel n).iic = s.iic := rfl
@[simp] theorem State.changeLevel_iie (s : State) (n : Level) : (s.changeLevel n).iie = s.iie := rfl
@[simp] theorem State.changeLevel_pcr (s : State) (n : Level) : (s.changeLevel n).pcr = s.pcr := rfl
@[simp] theorem State.changeLevel_pgs (s : State) (n : Level) : (s.changeLevel n).pgs = s.pgs := rfl
@[simp] theorem State.changeLevel_panel (s : State) (n : Level) : (s.changeLevel n).panel = s.panel := rfl
@[simp] theorem State.changeLevel_opr (s : State) (n : Level) : (s.changeLevel n).opr = s.opr := rfl
@[simp] theorem State.changeLevel_lmp (s : State) (n : Level) : (s.changeLevel n).lmp = s.lmp := rfl
@[simp] theorem State.changeLevel_pes (s : State) (n : Level) : (s.changeLevel n).pes = s.pes := rfl
@[simp] theorem State.changeLevel_pea (s : State) (n : Level) : (s.changeLevel n).pea = s.pea := rfl
@[simp] theorem State.changeLevel_peLocked (s : State) (n : Level) : (s.changeLevel n).peLocked = s.peLocked := rfl
@[simp] theorem State.changeLevel_eccr (s : State) (n : Level) : (s.changeLevel n).eccr = s.eccr := rfl
@[simp] theorem State.changeLevel_cs (s : State) (n : Level) : (s.changeLevel n).cs = s.cs := rfl
@[simp] theorem State.changeLevel_stbnk (s : State) (n : Level) : (s.changeLevel n).stbnk = s.stbnk := rfl
@[simp] theorem State.changeLevel_stsrt (s : State) (n : Level) : (s.changeLevel n).stsrt = s.stsrt := rfl
@[simp] theorem State.changeLevel_cmbnk (s : State) (n : Level) : (s.changeLevel n).cmbnk = s.cmbnk := rfl
@[simp] theorem State.changeLevel_run (s : State) (n : Level) : (s.changeLevel n).run = s.run := rfl
@[simp] theorem State.changeLevel_mem (s : State) (n : Level) : (s.changeLevel n).mem = s.mem := rfl
@[simp] theorem State.changeLevel_ptab (s : State) (n : Level) : (s.changeLevel n).ptab = s.ptab := rfl
@[simp] theorem State.changeLevel_badWords (s : State) (n : Level) : (s.changeLevel n).badWords = s.badWords := rfl
@[simp] theorem State.changeLevel_req10 (s : State) (n : Level) : (s.changeLevel n).req10 = s.req10 := rfl
@[simp] theorem State.changeLevel_req11 (s : State) (n : Level) : (s.changeLevel n).req11 = s.req11 := rfl
@[simp] theorem State.changeLevel_req12 (s : State) (n : Level) : (s.changeLevel n).req12 = s.req12 := rfl
@[simp] theorem State.changeLevel_req13 (s : State) (n : Level) : (s.changeLevel n).req13 = s.req13 := rfl
@[simp] theorem State.changeLevel_ioHistory (s : State) (n : Level) : (s.changeLevel n).ioHistory = s.ioHistory := rfl
@[simp] theorem State.changeLevel_free (s : State) (n : Level) : (s.changeLevel n).free = s.free := rfl
@[simp] theorem State.changeLevel_pollAfter (s : State) (n : Level) : (s.changeLevel n).pollAfter = s.pollAfter := rfl
@[simp] theorem State.changeLevel_levels (s : State) (n : Level) : (s.changeLevel n).levels = s.levels := rfl
@[simp] theorem State.changeLevel_pil (s : State) (n : Level) : (s.changeLevel n).pil = n := rfl
@[simp] theorem State.changeLevel_pvl (s : State) (n : Level) : (s.changeLevel n).pvl = s.pil := rfl

@[simp] theorem State.postInternal_cfg (s : State) (c : BitVec 4) : (s.postInternal c).cfg = s.cfg := rfl
@[simp] theorem State.postInternal_pil (s : State) (c : BitVec 4) : (s.postInternal c).pil = s.pil := rfl
@[simp] theorem State.postInternal_ioni (s : State) (c : BitVec 4) : (s.postInternal c).ioni = s.ioni := rfl
@[simp] theorem State.postInternal_poni (s : State) (c : BitVec 4) : (s.postInternal c).poni = s.poni := rfl
@[simp] theorem State.postInternal_sexi (s : State) (c : BitVec 4) : (s.postInternal c).sexi = s.sexi := rfl
@[simp] theorem State.postInternal_pie (s : State) (c : BitVec 4) : (s.postInternal c).pie = s.pie := rfl
@[simp] theorem State.postInternal_iie (s : State) (c : BitVec 4) : (s.postInternal c).iie = s.iie := rfl
@[simp] theorem State.postInternal_pvl (s : State) (c : BitVec 4) : (s.postInternal c).pvl = s.pvl := rfl
@[simp] theorem State.postInternal_pcr (s : State) (c : BitVec 4) : (s.postInternal c).pcr = s.pcr := rfl
@[simp] theorem State.postInternal_pgs (s : State) (c : BitVec 4) : (s.postInternal c).pgs = s.pgs := rfl
@[simp] theorem State.postInternal_panel (s : State) (c : BitVec 4) : (s.postInternal c).panel = s.panel := rfl
@[simp] theorem State.postInternal_opr (s : State) (c : BitVec 4) : (s.postInternal c).opr = s.opr := rfl
@[simp] theorem State.postInternal_lmp (s : State) (c : BitVec 4) : (s.postInternal c).lmp = s.lmp := rfl
@[simp] theorem State.postInternal_pes (s : State) (c : BitVec 4) : (s.postInternal c).pes = s.pes := rfl
@[simp] theorem State.postInternal_pea (s : State) (c : BitVec 4) : (s.postInternal c).pea = s.pea := rfl
@[simp] theorem State.postInternal_peLocked (s : State) (c : BitVec 4) : (s.postInternal c).peLocked = s.peLocked := rfl
@[simp] theorem State.postInternal_eccr (s : State) (c : BitVec 4) : (s.postInternal c).eccr = s.eccr := rfl
@[simp] theorem State.postInternal_cs (s : State) (c : BitVec 4) : (s.postInternal c).cs = s.cs := rfl
@[simp] theorem State.postInternal_stbnk (s : State) (c : BitVec 4) : (s.postInternal c).stbnk = s.stbnk := rfl
@[simp] theorem State.postInternal_stsrt (s : State) (c : BitVec 4) : (s.postInternal c).stsrt = s.stsrt := rfl
@[simp] theorem State.postInternal_cmbnk (s : State) (c : BitVec 4) : (s.postInternal c).cmbnk = s.cmbnk := rfl
@[simp] theorem State.postInternal_run (s : State) (c : BitVec 4) : (s.postInternal c).run = s.run := rfl
@[simp] theorem State.postInternal_mem (s : State) (c : BitVec 4) : (s.postInternal c).mem = s.mem := rfl
@[simp] theorem State.postInternal_ptab (s : State) (c : BitVec 4) : (s.postInternal c).ptab = s.ptab := rfl
@[simp] theorem State.postInternal_badWords (s : State) (c : BitVec 4) : (s.postInternal c).badWords = s.badWords := rfl
@[simp] theorem State.postInternal_req10 (s : State) (c : BitVec 4) : (s.postInternal c).req10 = s.req10 := rfl
@[simp] theorem State.postInternal_req11 (s : State) (c : BitVec 4) : (s.postInternal c).req11 = s.req11 := rfl
@[simp] theorem State.postInternal_req12 (s : State) (c : BitVec 4) : (s.postInternal c).req12 = s.req12 := rfl
@[simp] theorem State.postInternal_req13 (s : State) (c : BitVec 4) : (s.postInternal c).req13 = s.req13 := rfl
@[simp] theorem State.postInternal_ioHistory (s : State) (c : BitVec 4) : (s.postInternal c).ioHistory = s.ioHistory := rfl
@[simp] theorem State.postInternal_free (s : State) (c : BitVec 4) : (s.postInternal c).free = s.free := rfl
@[simp] theorem State.postInternal_pollAfter (s : State) (c : BitVec 4) : (s.postInternal c).pollAfter = s.pollAfter := rfl
@[simp] theorem State.postInternal_levels (s : State) (c : BitVec 4) : (s.postInternal c).levels = s.levels := rfl
@[simp] theorem State.postInternal_iic (s : State) (c : BitVec 4) : (s.postInternal c).iic = c := rfl
@[simp] theorem State.postInternal_pid (s : State) (c : BitVec 4) : (s.postInternal c).pid = putBit s.pid 14 true := rfl

@[simp] theorem State.setPid_cfg (s : State) (w : Word) : (s.setPid w).cfg = s.cfg := rfl
@[simp] theorem State.setPid_pil (s : State) (w : Word) : (s.setPid w).pil = s.pil := rfl
@[simp] theorem State.setPid_ioni (s : State) (w : Word) : (s.setPid w).ioni = s.ioni := rfl
@[simp] theorem State.setPid_poni (s : State) (w : Word) : (s.setPid w).poni = s.poni := rfl
@[simp] theorem State.setPid_sexi (s : State) (w : Word) : (s.setPid w).sexi = s.sexi := rfl
@[simp] theorem State.setPid_pie (s : State) (w : Word) : (s.setPid w).pie = s.pie := rfl
@[simp] theorem State.setPid_iic (s : State) (w : Word) : (s.setPid w).iic = s.iic := rfl
@[simp] theorem State.setPid_iie (s : State) (w : Word) : (s.setPid w).iie = s.iie := rfl
@[simp] theorem State.setPid_pvl (s : State) (w : Word) : (s.setPid w).pvl = s.pvl := rfl
@[simp] theorem State.setPid_pcr (s : State) (w : Word) : (s.setPid w).pcr = s.pcr := rfl
@[simp] theorem State.setPid_pgs (s : State) (w : Word) : (s.setPid w).pgs = s.pgs := rfl
@[simp] theorem State.setPid_panel (s : State) (w : Word) : (s.setPid w).panel = s.panel := rfl
@[simp] theorem State.setPid_opr (s : State) (w : Word) : (s.setPid w).opr = s.opr := rfl
@[simp] theorem State.setPid_lmp (s : State) (w : Word) : (s.setPid w).lmp = s.lmp := rfl
@[simp] theorem State.setPid_pes (s : State) (w : Word) : (s.setPid w).pes = s.pes := rfl
@[simp] theorem State.setPid_pea (s : State) (w : Word) : (s.setPid w).pea = s.pea := rfl
@[simp] theorem State.setPid_peLocked (s : State) (w : Word) : (s.setPid w).peLocked = s.peLocked := rfl
@[simp] theorem State.setPid_eccr (s : State) (w : Word) : (s.setPid w).eccr = s.eccr := rfl
@[simp] theorem State.setPid_cs (s : State) (w : Word) : (s.setPid w).cs = s.cs := rfl
@[simp] theorem State.setPid_stbnk (s : State) (w : Word) : (s.setPid w).stbnk = s.stbnk := rfl
@[simp] theorem State.setPid_stsrt (s : State) (w : Word) : (s.setPid w).stsrt = s.stsrt := rfl
@[simp] theorem State.setPid_cmbnk (s : State) (w : Word) : (s.setPid w).cmbnk = s.cmbnk := rfl
@[simp] theorem State.setPid_run (s : State) (w : Word) : (s.setPid w).run = s.run := rfl
@[simp] theorem State.setPid_mem (s : State) (w : Word) : (s.setPid w).mem = s.mem := rfl
@[simp] theorem State.setPid_ptab (s : State) (w : Word) : (s.setPid w).ptab = s.ptab := rfl
@[simp] theorem State.setPid_badWords (s : State) (w : Word) : (s.setPid w).badWords = s.badWords := rfl
@[simp] theorem State.setPid_req10 (s : State) (w : Word) : (s.setPid w).req10 = s.req10 := rfl
@[simp] theorem State.setPid_req11 (s : State) (w : Word) : (s.setPid w).req11 = s.req11 := rfl
@[simp] theorem State.setPid_req12 (s : State) (w : Word) : (s.setPid w).req12 = s.req12 := rfl
@[simp] theorem State.setPid_req13 (s : State) (w : Word) : (s.setPid w).req13 = s.req13 := rfl
@[simp] theorem State.setPid_ioHistory (s : State) (w : Word) : (s.setPid w).ioHistory = s.ioHistory := rfl
@[simp] theorem State.setPid_free (s : State) (w : Word) : (s.setPid w).free = s.free := rfl
@[simp] theorem State.setPid_pollAfter (s : State) (w : Word) : (s.setPid w).pollAfter = s.pollAfter := rfl
@[simp] theorem State.setPid_levels (s : State) (w : Word) : (s.setPid w).levels = s.levels := rfl
@[simp] theorem State.setPid_pid (s : State) (w : Word) : (s.setPid w).pid = w ||| s.deviceLines := rfl

@[simp] theorem State.selectLevel_cfg (s : State) : s.selectLevel.cfg = s.cfg := by
  unfold State.selectLevel; split <;> rfl
@[simp] theorem State.selectLevel_ioni (s : State) : s.selectLevel.ioni = s.ioni := by
  unfold State.selectLevel; split <;> rfl
@[simp] theorem State.selectLevel_poni (s : State) : s.selectLevel.poni = s.poni := by
  unfold State.selectLevel; split <;> rfl
@[simp] theorem State.selectLevel_sexi (s : State) : s.selectLevel.sexi = s.sexi := by
  unfold State.selectLevel; split <;> rfl
@[simp] theorem State.selectLevel_pid (s : State) : s.selectLevel.pid = s.pid := by
  unfold State.selectLevel; split <;> rfl
@[simp] theorem State.selectLevel_pie (s : State) : s.selectLevel.pie = s.pie := by
  unfold State.selectLevel; split <;> rfl
@[simp] theorem State.selectLevel_iic (s : State) : s.selectLevel.iic = s.iic := by
  unfold State.selectLevel; split <;> rfl
@[simp] theorem State.selectLevel_iie (s : State) : s.selectLevel.iie = s.iie := by
  unfold State.selectLevel; split <;> rfl
@[simp] theorem State.selectLevel_pcr (s : State) : s.selectLevel.pcr = s.pcr := by
  unfold State.selectLevel; split <;> rfl
@[simp] theorem State.selectLevel_pgs (s : State) : s.selectLevel.pgs = s.pgs := by
  unfold State.selectLevel; split <;> rfl
@[simp] theorem State.selectLevel_panel (s : State) : s.selectLevel.panel = s.panel := by
  unfold State.selectLevel; split <;> rfl
@[simp] theorem State.selectLevel_opr (s : State) : s.selectLevel.opr = s.opr := by
  unfold State.selectLevel; split <;> rfl
@[simp] theorem State.selectLevel_lmp (s : State) : s.selectLevel.lmp = s.lmp := by
  unfold State.selectLevel; split <;> rfl
@[simp] theorem State.selectLevel_pes (s : State) : s.selectLevel.pes = s.pes := by
  unfold State.selectLevel; split <;> rfl
@[simp] theorem State.selectLevel_pea (s : State) : s.selectLevel.pea = s.pea := by
  unfold State.selectLevel; split <;> rfl
@[simp] theorem State.selectLevel_peLocked (s : State) : s.selectLevel.peLocked = s.peLocked := by
  unfold State.selectLevel; split <;> rfl
@[simp] theorem State.selectLevel_eccr (s : State) : s.selectLevel.eccr = s.eccr := by
  unfold State.selectLevel; split <;> rfl
@[simp] theorem State.selectLevel_cs (s : State) : s.selectLevel.cs = s.cs := by
  unfold State.selectLevel; split <;> rfl
@[simp] theorem State.selectLevel_stbnk (s : State) : s.selectLevel.stbnk = s.stbnk := by
  unfold State.selectLevel; split <;> rfl
@[simp] theorem State.selectLevel_stsrt (s : State) : s.selectLevel.stsrt = s.stsrt := by
  unfold State.selectLevel; split <;> rfl
@[simp] theorem State.selectLevel_cmbnk (s : State) : s.selectLevel.cmbnk = s.cmbnk := by
  unfold State.selectLevel; split <;> rfl
@[simp] theorem State.selectLevel_run (s : State) : s.selectLevel.run = s.run := by
  unfold State.selectLevel; split <;> rfl
@[simp] theorem State.selectLevel_mem (s : State) : s.selectLevel.mem = s.mem := by
  unfold State.selectLevel; split <;> rfl
@[simp] theorem State.selectLevel_ptab (s : State) : s.selectLevel.ptab = s.ptab := by
  unfold State.selectLevel; split <;> rfl
@[simp] theorem State.selectLevel_badWords (s : State) : s.selectLevel.badWords = s.badWords := by
  unfold State.selectLevel; split <;> rfl
@[simp] theorem State.selectLevel_req10 (s : State) : s.selectLevel.req10 = s.req10 := by
  unfold State.selectLevel; split <;> rfl
@[simp] theorem State.selectLevel_req11 (s : State) : s.selectLevel.req11 = s.req11 := by
  unfold State.selectLevel; split <;> rfl
@[simp] theorem State.selectLevel_req12 (s : State) : s.selectLevel.req12 = s.req12 := by
  unfold State.selectLevel; split <;> rfl
@[simp] theorem State.selectLevel_req13 (s : State) : s.selectLevel.req13 = s.req13 := by
  unfold State.selectLevel; split <;> rfl
@[simp] theorem State.selectLevel_ioHistory (s : State) : s.selectLevel.ioHistory = s.ioHistory := by
  unfold State.selectLevel; split <;> rfl
@[simp] theorem State.selectLevel_free (s : State) : s.selectLevel.free = s.free := by
  unfold State.selectLevel; split <;> rfl
@[simp] theorem State.selectLevel_pollAfter (s : State) : s.selectLevel.pollAfter = s.pollAfter := by
  unfold State.selectLevel; split <;> rfl
@[simp] theorem State.selectLevel_levels (s : State) : s.selectLevel.levels = s.levels := by
  unfold State.selectLevel; split <;> rfl

@[simp] theorem store_cfg (t : Target) (v : Word) (s : State) : (store t v s).cfg = s.cfg := by cases t <;> rfl
@[simp] theorem store_pil (t : Target) (v : Word) (s : State) : (store t v s).pil = s.pil := by cases t <;> rfl
@[simp] theorem store_ioni (t : Target) (v : Word) (s : State) : (store t v s).ioni = s.ioni := by cases t <;> rfl
@[simp] theorem store_poni (t : Target) (v : Word) (s : State) : (store t v s).poni = s.poni := by cases t <;> rfl
@[simp] theorem store_sexi (t : Target) (v : Word) (s : State) : (store t v s).sexi = s.sexi := by cases t <;> rfl
@[simp] theorem store_pid (t : Target) (v : Word) (s : State) : (store t v s).pid = s.pid := by cases t <;> rfl
@[simp] theorem store_pie (t : Target) (v : Word) (s : State) : (store t v s).pie = s.pie := by cases t <;> rfl
@[simp] theorem store_iic (t : Target) (v : Word) (s : State) : (store t v s).iic = s.iic := by cases t <;> rfl
@[simp] theorem store_iie (t : Target) (v : Word) (s : State) : (store t v s).iie = s.iie := by cases t <;> rfl
@[simp] theorem store_pvl (t : Target) (v : Word) (s : State) : (store t v s).pvl = s.pvl := by cases t <;> rfl
@[simp] theorem store_pcr (t : Target) (v : Word) (s : State) : (store t v s).pcr = s.pcr := by cases t <;> rfl
@[simp] theorem store_pgs (t : Target) (v : Word) (s : State) : (store t v s).pgs = s.pgs := by cases t <;> rfl
@[simp] theorem store_panel (t : Target) (v : Word) (s : State) : (store t v s).panel = s.panel := by cases t <;> rfl
@[simp] theorem store_opr (t : Target) (v : Word) (s : State) : (store t v s).opr = s.opr := by cases t <;> rfl
@[simp] theorem store_lmp (t : Target) (v : Word) (s : State) : (store t v s).lmp = s.lmp := by cases t <;> rfl
@[simp] theorem store_pes (t : Target) (v : Word) (s : State) : (store t v s).pes = s.pes := by cases t <;> rfl
@[simp] theorem store_pea (t : Target) (v : Word) (s : State) : (store t v s).pea = s.pea := by cases t <;> rfl
@[simp] theorem store_peLocked (t : Target) (v : Word) (s : State) : (store t v s).peLocked = s.peLocked := by cases t <;> rfl
@[simp] theorem store_eccr (t : Target) (v : Word) (s : State) : (store t v s).eccr = s.eccr := by cases t <;> rfl
@[simp] theorem store_cs (t : Target) (v : Word) (s : State) : (store t v s).cs = s.cs := by cases t <;> rfl
@[simp] theorem store_stbnk (t : Target) (v : Word) (s : State) : (store t v s).stbnk = s.stbnk := by cases t <;> rfl
@[simp] theorem store_stsrt (t : Target) (v : Word) (s : State) : (store t v s).stsrt = s.stsrt := by cases t <;> rfl
@[simp] theorem store_cmbnk (t : Target) (v : Word) (s : State) : (store t v s).cmbnk = s.cmbnk := by cases t <;> rfl
@[simp] theorem store_run (t : Target) (v : Word) (s : State) : (store t v s).run = s.run := by cases t <;> rfl
@[simp] theorem store_req10 (t : Target) (v : Word) (s : State) : (store t v s).req10 = s.req10 := by cases t <;> rfl
@[simp] theorem store_req11 (t : Target) (v : Word) (s : State) : (store t v s).req11 = s.req11 := by cases t <;> rfl
@[simp] theorem store_req12 (t : Target) (v : Word) (s : State) : (store t v s).req12 = s.req12 := by cases t <;> rfl
@[simp] theorem store_req13 (t : Target) (v : Word) (s : State) : (store t v s).req13 = s.req13 := by cases t <;> rfl
@[simp] theorem store_ioHistory (t : Target) (v : Word) (s : State) : (store t v s).ioHistory = s.ioHistory := by cases t <;> rfl
@[simp] theorem store_badWords (t : Target) (v : Word) (s : State) : (store t v s).badWords = s.badWords := by cases t <;> rfl
@[simp] theorem store_free (t : Target) (v : Word) (s : State) : (store t v s).free = s.free := by cases t <;> rfl
@[simp] theorem store_pollAfter (t : Target) (v : Word) (s : State) : (store t v s).pollAfter = s.pollAfter := by cases t <;> rfl
@[simp] theorem store_levels (t : Target) (v : Word) (s : State) : (store t v s).levels = s.levels := by cases t <;> rfl

@[simp] theorem peek_cfg (t : Target) (s : State) : (peek t s).2.cfg = s.cfg := by cases t <;> rfl
@[simp] theorem peek_pil (t : Target) (s : State) : (peek t s).2.pil = s.pil := by cases t <;> rfl
@[simp] theorem peek_ioni (t : Target) (s : State) : (peek t s).2.ioni = s.ioni := by cases t <;> rfl
@[simp] theorem peek_poni (t : Target) (s : State) : (peek t s).2.poni = s.poni := by cases t <;> rfl
@[simp] theorem peek_sexi (t : Target) (s : State) : (peek t s).2.sexi = s.sexi := by cases t <;> rfl
@[simp] theorem peek_pid (t : Target) (s : State) : (peek t s).2.pid = s.pid := by cases t <;> rfl
@[simp] theorem peek_pie (t : Target) (s : State) : (peek t s).2.pie = s.pie := by cases t <;> rfl
@[simp] theorem peek_iic (t : Target) (s : State) : (peek t s).2.iic = s.iic := by cases t <;> rfl
@[simp] theorem peek_iie (t : Target) (s : State) : (peek t s).2.iie = s.iie := by cases t <;> rfl
@[simp] theorem peek_pvl (t : Target) (s : State) : (peek t s).2.pvl = s.pvl := by cases t <;> rfl
@[simp] theorem peek_pcr (t : Target) (s : State) : (peek t s).2.pcr = s.pcr := by cases t <;> rfl
@[simp] theorem peek_pgs (t : Target) (s : State) : (peek t s).2.pgs = s.pgs := by cases t <;> rfl
@[simp] theorem peek_panel (t : Target) (s : State) : (peek t s).2.panel = s.panel := by cases t <;> rfl
@[simp] theorem peek_opr (t : Target) (s : State) : (peek t s).2.opr = s.opr := by cases t <;> rfl
@[simp] theorem peek_lmp (t : Target) (s : State) : (peek t s).2.lmp = s.lmp := by cases t <;> rfl
@[simp] theorem peek_pes (t : Target) (s : State) : (peek t s).2.pes = s.pes := by cases t <;> rfl
@[simp] theorem peek_pea (t : Target) (s : State) : (peek t s).2.pea = s.pea := by cases t <;> rfl
@[simp] theorem peek_peLocked (t : Target) (s : State) : (peek t s).2.peLocked = s.peLocked := by cases t <;> rfl
@[simp] theorem peek_eccr (t : Target) (s : State) : (peek t s).2.eccr = s.eccr := by cases t <;> rfl
@[simp] theorem peek_cs (t : Target) (s : State) : (peek t s).2.cs = s.cs := by cases t <;> rfl
@[simp] theorem peek_stbnk (t : Target) (s : State) : (peek t s).2.stbnk = s.stbnk := by cases t <;> rfl
@[simp] theorem peek_stsrt (t : Target) (s : State) : (peek t s).2.stsrt = s.stsrt := by cases t <;> rfl
@[simp] theorem peek_cmbnk (t : Target) (s : State) : (peek t s).2.cmbnk = s.cmbnk := by cases t <;> rfl
@[simp] theorem peek_run (t : Target) (s : State) : (peek t s).2.run = s.run := by cases t <;> rfl
@[simp] theorem peek_mem (t : Target) (s : State) : (peek t s).2.mem = s.mem := by cases t <;> rfl
@[simp] theorem peek_ptab (t : Target) (s : State) : (peek t s).2.ptab = s.ptab := by cases t <;> rfl
@[simp] theorem peek_req10 (t : Target) (s : State) : (peek t s).2.req10 = s.req10 := by cases t <;> rfl
@[simp] theorem peek_req11 (t : Target) (s : State) : (peek t s).2.req11 = s.req11 := by cases t <;> rfl
@[simp] theorem peek_req12 (t : Target) (s : State) : (peek t s).2.req12 = s.req12 := by cases t <;> rfl
@[simp] theorem peek_req13 (t : Target) (s : State) : (peek t s).2.req13 = s.req13 := by cases t <;> rfl
@[simp] theorem peek_ioHistory (t : Target) (s : State) : (peek t s).2.ioHistory = s.ioHistory := by cases t <;> rfl
@[simp] theorem peek_badWords (t : Target) (s : State) : (peek t s).2.badWords = s.badWords := by cases t <;> rfl
@[simp] theorem peek_pollAfter (t : Target) (s : State) : (peek t s).2.pollAfter = s.pollAfter := by cases t <;> rfl
@[simp] theorem peek_levels (t : Target) (s : State) : (peek t s).2.levels = s.levels := by cases t <;> rfl

/-! ### Registers -/

@[simp] theorem LevelRegs.get_put_same (r : LevelRegs) (c : Reg) (v : Word) : (r.put c v).get c = v := by
  cases c <;> rfl

theorem LevelRegs.get_put_ne (r : LevelRegs) {c e : Reg} (v : Word) (h : e ≠ c) : (r.put c v).get e = r.get e := by
  cases c <;> cases e <;> first | rfl | exact absurd rfl h

@[simp] theorem LevelRegs.put_sts (r : LevelRegs) (c : Reg) (v : Word) : (r.put c v).sts = r.sts := by
  cases c <;> rfl

@[simp] theorem State.level_setLevel_same (s : State) (l : Level) (r : LevelRegs) : (s.setLevel l r).level l = r := by
  simp [State.level, State.setLevel]

theorem State.level_setLevel_ne (s : State) {l k : Level} (r : LevelRegs) (h : k ≠ l) :
    (s.setLevel l r).level k = s.level k := by
  have : l.toNat ≠ k.toNat := fun e => h (BitVec.eq_of_toNat_eq e.symm)
  simp [State.level, State.setLevel, this]

@[simp] theorem State.reg_setReg_same (s : State) (c : Reg) (v : Word) : (s.setReg c v).reg c = v := by
  simp [State.reg, State.setReg]

theorem State.reg_setReg_ne (s : State) {c e : Reg} (v : Word) (h : e ≠ c) : (s.setReg c v).reg e = s.reg e := by
  simp [State.reg, State.setReg, LevelRegs.get_put_ne _ _ h]

/-- Reading any register after writing one. -/
theorem State.reg_setReg (s : State) (c e : Reg) (v : Word) :
    (s.setReg c v).reg e = if e = c then v else s.reg e := by
  split
  · next h => subst h; simp
  · next h => exact s.reg_setReg_ne v h

@[simp] theorem State.stsLow_setReg (s : State) (c : Reg) (v : Word) : (s.setReg c v).stsLow = s.stsLow := by
  simp [State.stsLow, State.setReg]

@[simp] theorem State.stsLow_setStsLow (s : State) (v : Byte) : (s.setStsLow v).stsLow = v := by
  simp [State.stsLow, State.setStsLow]

@[simp] theorem State.reg_setStsLow (s : State) (v : Byte) (c : Reg) : (s.setStsLow v).reg c = s.reg c := by
  cases c <;> simp [State.reg, State.setStsLow, LevelRegs.get]

@[simp] theorem State.reg_setFlag (s : State) (f : Flag) (b : Bool) (c : Reg) : (s.setFlag f b).reg c = s.reg c := by
  simp [State.setFlag]

@[simp] theorem State.flag_setReg (s : State) (c : Reg) (v : Word) (f : Flag) : (s.setReg c v).flag f = s.flag f := by
  simp [State.flag]

theorem State.level_setReg_ne (s : State) (c : Reg) (v : Word) {l : Level} (h : l ≠ s.pil) :
    (s.setReg c v).level l = s.level l := s.level_setLevel_ne _ h

theorem State.level_setStsLow_ne (s : State) (v : Byte) {l : Level} (h : l ≠ s.pil) :
    (s.setStsLow v).level l = s.level l := s.level_setLevel_ne _ h

theorem State.level_setFlag_ne (s : State) (f : Flag) (b : Bool) {l : Level} (h : l ≠ s.pil) :
    (s.setFlag f b).level l = s.level l := s.level_setLevel_ne _ h

@[simp] theorem State.level_changeLevel (s : State) (n l : Level) : (s.changeLevel n).level l = s.level l := rfl

@[simp] theorem State.level_selectLevel (s : State) (l : Level) : s.selectLevel.level l = s.level l := by
  unfold State.selectLevel; split <;> rfl

@[simp] theorem State.level_postInternal (s : State) (c : BitVec 4) (l : Level) :
    (s.postInternal c).level l = s.level l := rfl

@[simp] theorem State.level_setPid (s : State) (w : Word) (l : Level) : (s.setPid w).level l = s.level l := rfl

@[simp] theorem State.reg_advance_p (s : State) : s.advance.reg .p = s.reg .p + 1 := by
  simp [State.advance, State.pc]

theorem State.reg_advance (s : State) {c : Reg} (h : c ≠ .p) : s.advance.reg c = s.reg c := s.reg_setReg_ne _ h

@[simp] theorem State.stsLow_advance (s : State) : s.advance.stsLow = s.stsLow := by simp [State.advance]

@[simp] theorem State.flag_advance (s : State) (f : Flag) : s.advance.flag f = s.flag f := by simp [State.flag]

@[simp] theorem State.reg_skip_p (s : State) : s.skip.reg .p = s.reg .p + 2 := by simp [State.skip, State.pc]

theorem State.reg_skip (s : State) {c : Reg} (h : c ≠ .p) : s.skip.reg c = s.reg c := s.reg_setReg_ne _ h

@[simp] theorem State.flag_skip (s : State) (f : Flag) : s.skip.flag f = s.flag f := by simp [State.skip]

@[simp] theorem State.reg_jump_p (s : State) (a : Word) : (s.jump a).reg .p = a := by simp [State.jump]

theorem State.reg_jump (s : State) (a : Word) {c : Reg} (h : c ≠ .p) : (s.jump a).reg c = s.reg c :=
  s.reg_setReg_ne _ h

@[simp] theorem State.flag_jump (s : State) (a : Word) (f : Flag) : (s.jump a).flag f = s.flag f := by
  simp [State.jump]

/-! ### Bits and flags -/

/-- The bits of a word after one is replaced. -/
theorem getLsbD_putBit {n : Nat} (w : BitVec n) (i j : Nat) (b : Bool) (h : i < n) :
    (putBit w i b).getLsbD j = if j = i then b else w.getLsbD j := by
  unfold putBit
  by_cases hj : j < n
  · cases b <;> simp [hj] <;> by_cases e : j = i <;> simp [e] <;>
      (try intro _) <;> (try omega)
  · have : j ≠ i := by omega
    simp [this, BitVec.getLsbD_of_ge _ _ (Nat.le_of_not_lt hj)]

theorem flagBit_lt (f : Flag) : flagBit f < 8 := by cases f <;> decide

theorem flagBit_inj {f g : Flag} (h : flagBit f = flagBit g) : f = g := by
  cases f <;> cases g <;> first | rfl | exact absurd h (by decide)

/-- Reading any flag after writing one. -/
theorem State.flag_setFlag (s : State) (f g : Flag) (b : Bool) :
    (s.setFlag f b).flag g = if g = f then b else s.flag g := by
  simp only [State.flag, State.setFlag, State.stsLow_setStsLow]
  rw [getLsbD_putBit _ _ _ _ (flagBit_lt f)]
  by_cases h : g = f
  · simp [h]
  · have : flagBit g ≠ flagBit f := fun e => h (flagBit_inj e)
    simp [h, this]

@[simp] theorem State.flag_setFlag_same (s : State) (f : Flag) (b : Bool) : (s.setFlag f b).flag f = b := by
  simp [State.flag_setFlag]

theorem State.flag_setFlag_ne (s : State) {f g : Flag} (b : Bool) (h : g ≠ f) : (s.setFlag f b).flag g = s.flag g := by
  simp [State.flag_setFlag, h]

end Sys2Proof.Machine
end

