-- ==== Sys2Proof/Laws/Ops.lean ====
section
/-! SUPPORT. One lemma per shared operation that says once what it can do. -/

namespace Sys2Proof.Machine

/-! ### Sequencing -/

@[simp] theorem Res.bind_ok {α β : Type} (a : α) (s : State) (k : α → State → Res β) :
    (Res.ok a s).bind k = k a s := rfl

@[simp] theorem Res.bind_stop {α β : Type} (o : Out) (k : α → State → Res β) : (Res.stop o).bind k = .stop o := rfl

@[simp] theorem Res.andThen_ok {α : Type} (a : α) (s : State) (k : α → State → Out) : (Res.ok a s).andThen k = k a s :=
  rfl

@[simp] theorem Res.andThen_stop {α : Type} (o : Out) (k : α → State → Out) : (Res.stop o : Res α).andThen k = o := rfl

/-- A sequence that goes on has gone on in both parts. -/
theorem Res.bind_eq_ok {α β : Type} {r : Res α} {k : α → State → Res β} {b : β} {t : State}
    (h : r.bind k = .ok b t) : ∃ a u, r = .ok a u ∧ k a u = .ok b t := by
  cases r with
  | ok a u => exact ⟨a, u, rfl, h⟩
  | stop o => cases h

/-- A sequence that stops has stopped in one of its parts. -/
theorem Res.bind_eq_stop {α β : Type} {r : Res α} {k : α → State → Res β} {o : Out} (h : r.bind k = .stop o) :
    r = .stop o ∨ ∃ a u, r = .ok a u ∧ k a u = .stop o := by
  cases r with
  | ok a u => exact .inr ⟨a, u, rfl, h⟩
  | stop o' => exact .inl (by simpa using h)

/-- An instruction that answers a next state has either gone on or stopped with it. -/
theorem Res.andThen_eq_next {α : Type} {r : Res α} {k : α → State → Out} {t : State} (h : r.andThen k = .next t) :
    r = .stop (.next t) ∨ ∃ a u, r = .ok a u ∧ k a u = .next t := by
  cases r with
  | ok a u => exact .inr ⟨a, u, rfl, h⟩
  | stop o => exact .inl (by simpa using h)

/-! ### Privilege and interrupts -/

/-- Outside user mode a privileged instruction is executed. -/
theorem privileged_of_not_user {s : State} (k : Out) (h : s.userMode = false) : privileged s k = k := by
  simp [privileged, h]

/-- In user mode it is not, and code 6 is raised. -/
theorem privileged_of_user {s : State} (k : Out) (h : s.userMode = true) : privileged s k = raiseAbort 6 s := by
  simp [privileged, h]

/-- What an aborting internal interrupt answers. -/
theorem raiseAbort_eq (code : BitVec 4) (s : State) :
    (raiseAbort code s = .next (s.takeInternal code) ∧ s.interruptEnabled code = true ∧ s.canEnter14 = true) ∨
      (raiseAbort code s = .refused (.undeliverable code) ∧
        (s.interruptEnabled code && s.canEnter14) = false) := by
  unfold raiseAbort
  split
  · next h => exact .inl ⟨rfl, by simpa using h⟩
  · next h => exact .inr ⟨rfl, by simpa using h⟩

theorem highestBelow_le (req : Word) : ∀ n, highestBelow req n ≤ n - 1
  | 0 => Nat.le_refl 0
  | n + 1 => by
    unfold highestBelow
    split
    · omega
    · have := highestBelow_le req n; omega

/-- The level selected is the one that requests and is above every other that does. -/
theorem highestBelow_spec (req : Word) (n : Nat) {k : Nat} (hk : k < n) (h : req.getLsbD k = true) :
    k ≤ highestBelow req n ∧ req.getLsbD (highestBelow req n) = true := by
  induction n with
  | zero => omega
  | succ n ih =>
    unfold highestBelow
    split
    · next e => exact ⟨by omega, e⟩
    · next e =>
      have : k ≠ n := by rintro rfl; exact e h
      exact ih (by omega)

/-- Selection leaves the level selected, if the interrupt system is on. -/
theorem State.settled_selectLevel (s : State) : s.selectLevel.settled := by
  intro h
  unfold State.selectLevel at *
  split
  · rfl
  · next e =>
    rw [if_neg e] at h
    simp [h] at e
    exact e.symm

/-! ### Translation and access -/

theorem State.Accessed.refl (s : State) : s.Accessed s := ⟨rfl, fun _ => rfl, fun h => ⟨h, fun _ => rfl⟩⟩

/-- What an access leaves alone, field by field. -/
theorem State.Accessed.eq {s t : State} (h : s.Accessed t) : t = { s with ptab := t.ptab, free := t.free } := by
  have := h.same
  rw [← this]

theorem State.Accessed.trans {s t u : State} (h : s.Accessed t) (k : t.Accessed u) : s.Accessed u := by
  have hs := h.eq
  have ks := k.eq
  refine ⟨?_, fun hp => ?_, fun hw => ?_⟩
  · rw [ks, hs]
  · have : t.poni = false := by rw [hs]; exact hp
    rw [k.off this, h.off hp]
  · have a := h.bits hw
    have b := k.bits a.1
    exact ⟨b.1, fun i => (b.2 i).trans (a.2 i)⟩

theorem markEntry_mask (a b : Bool) (w : Word) : markEntry w a b &&& 0o163777 = w &&& 0o163777 := by
  unfold markEntry bitWord
  rw [BitVec.and_or_distrib_right, BitVec.and_or_distrib_right]
  cases a <;> cases b <;> simp

/-- Marking an entry keeps the page tables but for PGU and WIP. -/
theorem State.accessed_mark (s : State) (e : BitVec 10) (a b : Bool) (h : s.poni = true) :
    s.Accessed { s with ptab := Memory.setWord s.ptab (2 * e.toNat) (markEntry (s.entryWord0 e) a b) } := by
  have he : 2 * (2 * e.toNat) + 1 < Memory.ptabBytes := by
    have := e.isLt
    unfold Memory.ptabBytes
    omega
  refine ⟨rfl, fun hp => by simp [h] at hp, fun hw => ⟨Memory.wf_setWord hw he, fun i => ?_⟩⟩
  simp only
  rw [Memory.word_setWord hw he]
  split
  · next hi => rw [markEntry_mask, State.entryWord0, hi]
  · rfl

theorem translate_accessed {kind : AccessKind} {tbl : Table} {va : Word} {s t : State} {pa : PhysAddr}
    (hp : s.poni = true) (h : translate kind tbl va s = .ok pa t) : s.Accessed t := by
  unfold translate at h
  dsimp only at h
  split at h
  · cases h
    exact s.accessed_mark _ _ _ hp
  · cases h
  · cases h

/-- A verdict on a page in normal mode names a page of nine bits. -/
theorem judgePage_normal {cfg : Config} {w0 w1 : Word} {kind : AccessKind} {ring : BitVec 2} {page : BitVec 14}
    {p w : Bool} (h : judgePage cfg w0 w1 kind ring false = .allowed page p w) : page.toNat < 2 ^ 9 := by
  have h9 (x : BitVec 9) : (x.setWidth 14).toNat < 2 ^ 9 := by
    have := x.isLt
    simp only [BitVec.toNat_setWidth]
    omega
  unfold judgePage at h
  split at h
  · simp only [judgeReference, Bool.false_eq_true, if_false] at h
    repeat' split at h
    all_goals first | cases h; done | skip
    cases h
    exact h9 _
  · unfold limitPage at h
    split at h <;> cases h
    exact h9 _

/-- A translation keeps the offset, and in normal mode gives a 19-bit address (spec/20_memory.md R101 b, c). -/
theorem translate_address {kind : AccessKind} {tbl : Table} {va : Word} {s t : State} {pa : PhysAddr}
    (h : translate kind tbl va s = .ok pa t) :
    pa.extractLsb' 0 10 = va.extractLsb' 0 10 ∧ (s.sexi = false → pa.toNat < 2 ^ 19) := by
  unfold translate at h
  dsimp only at h
  split at h
  · next page p w e =>
    cases h
    have low (a : BitVec 14) (b : BitVec 10) : (a ++ b).extractLsb' 0 10 = b := by
      have hb := b.isLt
      apply BitVec.eq_of_toNat_eq
      rw [BitVec.extractLsb'_toNat, BitVec.toNat_append, ← Nat.shiftLeft_add_eq_or_of_lt hb, Nat.shiftLeft_eq,
        Nat.shiftRight_zero]
      omega
    refine ⟨low _ _, fun hs => ?_⟩
    rw [hs] at e
    have := judgePage_normal e
    have hv := (va.extractLsb' 0 10).isLt
    rw [BitVec.toNat_append, ← Nat.shiftLeft_add_eq_or_of_lt hv, Nat.shiftLeft_eq]
    omega
  · cases h
  · cases h

theorem resolveMemory_ok {kind : AccessKind} {pa : PhysAddr} {s t : State} {g : Target}
    (h : resolveMemory kind pa s = .ok g t) : t = s ∧ (g = .mem pa ∨ g = .absent) := by
  unfold resolveMemory at h
  split at h
  · split at h
    · cases h; exact ⟨rfl, .inl rfl⟩
    · split at h
      · cases h
      · cases h; exact ⟨rfl, .inr rfl⟩
  · split at h
    · cases h
    · cases h; exact ⟨rfl, .inr rfl⟩

theorem resolvePhys_ok {kind : AccessKind} {pa : PhysAddr} {s t : State} {g : Target}
    (h : resolvePhys kind pa s = .ok g t) : t = s := by
  unfold resolvePhys at h
  split at h
  · cases h; rfl
  · exact (resolveMemory_ok h).1

/-- An access that is checked changes nothing but page bits. -/
theorem resolve_accessed {kind : AccessKind} {tbl : Table} {va : Word} {s t : State} {g : Target}
    (h : resolve kind tbl va s = .ok g t) : s.Accessed t := by
  unfold resolve at h
  split at h
  · rw [resolvePhys_ok h]; exact .refl s
  · next hp =>
    have hp : s.poni = true := by simpa using hp
    split at h
    · cases h; exact .refl _
    · obtain ⟨pa, u, h1, h2⟩ := Res.bind_eq_ok h
      rw [(resolveMemory_ok h2).1]
      exact translate_accessed hp h1

theorem peek_accessed (t : Target) (s : State) : s.Accessed (peek t s).2 := by
  cases t with
  | mem pa => exact .refl s
  | ptab i => exact .refl s
  | absent => exact ⟨rfl, fun _ => rfl, fun h => ⟨h, fun _ => rfl⟩⟩

theorem load_accessed {g : Target} {s t : State} {v : Word} (h : load g s = .ok v t) : s.Accessed t := by
  cases h
  exact peek_accessed g s

/-- A word read from a target that is there. -/
theorem load_present {g : Target} (s : State) (h : g ≠ .absent) : load g s = .ok (s.wordAt g) s := by
  cases g with
  | mem pa => rfl
  | ptab i => rfl
  | absent => exact absurd rfl h

theorem freshWord_accessed {s t : State} {v : Word} (h : freshWord s = .ok v t) : s.Accessed t := by
  cases h
  exact ⟨rfl, fun _ => rfl, fun h => ⟨h, fun _ => rfl⟩⟩

theorem readVirt_accessed {tbl : Table} {va : Word} {s t : State} {v : Word} (h : readVirt tbl va s = .ok v t) :
    s.Accessed t := by
  obtain ⟨g, u, h1, h2⟩ := Res.bind_eq_ok h
  exact (resolve_accessed h1).trans (load_accessed h2)

theorem readPhys_accessed {pa : PhysAddr} {s t : State} {v : Word} (h : readPhys pa s = .ok v t) : s.Accessed t := by
  obtain ⟨g, u, h1, h2⟩ := Res.bind_eq_ok h
  rw [resolvePhys_ok h1] at h2
  exact load_accessed h2

theorem fetchWord_accessed {va : Word} {s t : State} {v : Word} (h : fetchWord va s = .ok v t) : s.Accessed t := by
  obtain ⟨g, u, h1, h2⟩ := Res.bind_eq_ok h
  exact (resolve_accessed h1).trans (load_accessed h2)

theorem resolve2_accessed {kind : AccessKind} {tbl : Table} {a b : Word} {s t : State} {g : Target × Target}
    (h : resolve2 kind tbl a b s = .ok g t) : s.Accessed t := by
  obtain ⟨g1, u, h1, h2⟩ := Res.bind_eq_ok h
  obtain ⟨g2, w, h3, h4⟩ := Res.bind_eq_ok h2
  cases h4
  exact (resolve_accessed h1).trans (resolve_accessed h3)

/-- A part made of accesses for each element of a list. -/
theorem mapRes_accessed {α β : Type} {f : α → State → Res β}
    (hf : ∀ x u y w, f x u = .ok y w → State.Accessed u w) :
    ∀ {xs : List α} {s t : State} {ys : List β}, mapRes f xs s = .ok ys t → s.Accessed t ∧ ys.length = xs.length
  | [], s, t, ys, h => by cases h; exact ⟨.refl s, rfl⟩
  | x :: xs, s, t, ys, h => by
    obtain ⟨y, u, h1, h2⟩ := Res.bind_eq_ok h
    obtain ⟨zs, w, h3, h4⟩ := Res.bind_eq_ok h2
    cases h4
    have := mapRes_accessed hf h3
    exact ⟨(hf _ _ _ _ h1).trans this.1, by simp [this.2]⟩

/-- The effective address is found without a change but page bits (spec/20_memory.md R90: no mode modifies B, X or
P). -/
theorem effAddr_accessed {m : MemOperand} {s t : State} {p : Place} (h : effAddr m s = .ok p t) : s.Accessed t := by
  unfold effAddr at h
  split at h
  · obtain ⟨v, u, h1, h2⟩ := Res.bind_eq_ok h
    cases h2
    exact readVirt_accessed h1
  · cases h; exact .refl _

theorem readOperand_accessed {m : MemOperand} {s t : State} {v : Word} (h : readOperand m s = .ok v t) :
    s.Accessed t := by
  obtain ⟨p, u, h1, h2⟩ := Res.bind_eq_ok h
  exact (effAddr_accessed h1).trans (readVirt_accessed h2)

theorem readTwo_accessed {tbl : Table} {a : Word} {s t : State} {v : Word × Word} (h : readTwo tbl a s = .ok v t) :
    s.Accessed t := by
  obtain ⟨x, u, h1, h2⟩ := Res.bind_eq_ok h
  obtain ⟨y, w, h3, h4⟩ := Res.bind_eq_ok h2
  cases h4
  exact (readVirt_accessed h1).trans (readVirt_accessed h3)

theorem readThree_accessed {tbl : Table} {a : Word} {s t : State} {v : Word × Word × Word}
    (h : readThree tbl a s = .ok v t) : s.Accessed t := by
  obtain ⟨x, u, h1, h2⟩ := Res.bind_eq_ok h
  obtain ⟨y, w, h3, h4⟩ := Res.bind_eq_ok h2
  obtain ⟨z, x', h5, h6⟩ := Res.bind_eq_ok h4
  cases h6
  exact ((readVirt_accessed h1).trans (readVirt_accessed h3)).trans (readVirt_accessed h5)

theorem readList_accessed {tbl : Table} {vas : List Word} {s t : State} {vs : List Word}
    (h : readList tbl vas s = .ok vs t) : s.Accessed t := (mapRes_accessed (fun _ _ _ _ e => readVirt_accessed e) h).1

/-- An access to a word of the page tables marks nothing, whatever it does with the word: no translated access reaches them
(spec/20_memory.md R99, R101). -/
theorem resolve_same_word {kind : AccessKind} {tbl : Table} {va : Word} {s t : State} {i : BitVec 11}
    (h : resolve kind tbl va s = .ok (.ptab i) t) : t = s ∧ ∀ k, resolve k tbl va s = .ok (.ptab i) s := by
  have hm : ∀ {pa u v}, resolveMemory kind pa u ≠ .ok (.ptab i) v := by
    intro pa u v e
    rcases (resolveMemory_ok e).2 with e | e <;> cases e
  unfold resolve at h ⊢
  split at h
  · next hp =>
    simp only [if_pos hp]
    unfold resolvePhys at h ⊢
    split at h
    · next hr => cases h; simp only [if_pos hr]; exact ⟨trivial, fun _ => trivial⟩
    · exact absurd h hm
  · next hp =>
    simp only [if_neg hp]
    split at h
    · next hr => cases h; simp only [if_pos hr]; exact ⟨trivial, fun _ => trivial⟩
    · obtain ⟨pa, u, _, h2⟩ := Res.bind_eq_ok h
      exact absurd h2 hm

/-! ### Checks first, accesses in order -/

/-- What a part whose accesses go on has done: its checks went on, and its accesses were made in order. -/
theorem inOrder_ok {α : Type} {part : Pass → State → Res α} {s t : State} {a : α} (h : inOrder part s = .ok a t) :
    (∃ b u, part .check s = .ok b u) ∧ part .perform s = .ok a t := by
  unfold inOrder at h
  split at h
  · cases h
  · next b u e =>
    split at h
    · next e' => cases h; exact ⟨⟨b, u, e⟩, e'⟩
    · cases h

/-- What a part that stops has done: a check refused it, or after its checks one of its own writes made an access one that is
refused, and its writes are withdrawn. -/
theorem inOrder_stop {α : Type} {part : Pass → State → Res α} {s : State} {o : Out} (h : inOrder part s = .stop o) :
    part .check s = .stop o ∨
      ∃ b u p, part .check s = .ok b u ∧ part .perform s = .stop p ∧ o = withoutWrites s u p := by
  unfold inOrder at h
  split at h
  · next e => cases h; exact .inl e
  · next b u e =>
    split at h
    · cases h
    · next p e' => cases h; exact .inr ⟨b, u, p, e, e', rfl⟩

theorem inOrder_of_ok {α : Type} {part : Pass → State → Res α} {s t u : State} {a b : α} (h : part .check s = .ok b u)
    (k : part .perform s = .ok a t) : inOrder part s = .ok a t := by
  simp only [inOrder, h, k]

theorem inOrder_of_stop {α : Type} {part : Pass → State → Res α} {s : State} {o : Out} (h : part .check s = .stop o) :
    inOrder part s = .stop o := by
  simp only [inOrder, h]

/-- Withdrawing the writes of an internal interrupt is raising it without them. -/
theorem withoutWrites_raiseAbort (c : BitVec 4) (s u t : State) :
    withoutWrites s u (raiseAbort c t) = raiseAbort c { t with levels := s.levels, mem := s.mem, ptab := u.ptab } := by
  unfold raiseAbort
  simp only [show ({ t with levels := s.levels, mem := s.mem, ptab := u.ptab } : State).interruptEnabled c =
      t.interruptEnabled c from rfl,
    show ({ t with levels := s.levels, mem := s.mem, ptab := u.ptab } : State).canEnter14 = t.canEnter14 from rfl]
  split
  · simp only [withoutWrites, State.takeInternal, State.selectLevel]
    simp only [show (({ t with levels := s.levels, mem := s.mem, ptab := u.ptab } : State).postInternal c).ioni =
        (t.postInternal c).ioni from rfl,
      show (({ t with levels := s.levels, mem := s.mem, ptab := u.ptab } : State).postInternal c).topLevel =
        (t.postInternal c).topLevel from rfl,
      show (({ t with levels := s.levels, mem := s.mem, ptab := u.ptab } : State).postInternal c).pil =
        (t.postInternal c).pil from rfl]
    split <;> rfl
  · rfl

@[simp] theorem storeIn_check (g : Target) (v : Word) (s : State) : storeIn .check g v s = s := rfl

@[simp] theorem storeIn_perform (g : Target) (v : Word) (s : State) : storeIn .perform g v s = store g v s := rfl

/-! ### Frames -/

theorem State.Accessed.reg {s t : State} (h : s.Accessed t) (c : Reg) : t.reg c = s.reg c := by
  rw [h.eq]; rfl

theorem State.Accessed.flag {s t : State} (h : s.Accessed t) (f : Flag) : t.flag f = s.flag f := by
  rw [h.eq]; rfl

theorem State.Accessed.level {s t : State} (h : s.Accessed t) (l : Level) : t.level l = s.level l := by
  rw [h.eq]; rfl

theorem State.Accessed.mem {s t : State} (h : s.Accessed t) : t.mem = s.mem := by
  rw [h.eq]

theorem State.Accessed.pil {s t : State} (h : s.Accessed t) : t.pil = s.pil := by
  rw [h.eq]

/-- An access alone leaves everything. -/
theorem State.Accessed.frame {s t : State} (h : s.Accessed t) (hw : s.memoryWf) (rs : List Reg) (fs : List Flag) :
    s.Frame rs fs [] t := by
  refine ⟨fun r _ => h.reg r, fun f _ => h.flag f, fun l _ => h.level l, ?_, fun a _ => by rw [h.mem],
    fun hp a _ => by rw [h.off hp], fun i _ => (h.bits hw.2).2 i⟩
  conv_lhs => rw [h.eq]

theorem State.Frame.refl (rs : List Reg) (fs : List Flag) (gs : List Target) (s : State) : s.Frame rs fs gs s :=
  ⟨fun _ _ => rfl, fun _ _ => rfl, fun _ _ => rfl, rfl, fun _ _ => rfl, fun _ _ _ => rfl, fun _ _ => rfl⟩

theorem State.Frame.eq {rs : List Reg} {fs : List Flag} {gs : List Target} {s t : State} (h : s.Frame rs fs gs t) :
    t = { s with levels := t.levels, mem := t.mem, ptab := t.ptab, free := t.free } := by
  have := h.special
  rw [← this]

/-- Two frames one after the other. -/
theorem State.Frame.trans {rs rs' : List Reg} {fs fs' : List Flag} {gs gs' : List Target} {s t u : State}
    (h : s.Frame rs fs gs t) (k : t.Frame rs' fs' gs' u) :
    s.Frame (rs ++ rs') (fs ++ fs') (gs ++ gs') u := by
  have hs := h.eq
  have ks := k.eq
  refine ⟨fun r hr => ?_, fun f hf => ?_, fun l hl => ?_, ?_, fun a ha => ?_, fun hp a ha => ?_, fun i hi => ?_⟩
  · simp only [List.mem_append, not_or] at hr
    rw [k.regs r hr.2, h.regs r hr.1]
  · simp only [List.mem_append, not_or] at hf
    rw [k.flags f hf.2, h.flags f hf.1]
  · have : t.pil = s.pil := by rw [hs]
    rw [k.levels l (by rw [this]; exact hl), h.levels l hl]
  · rw [ks, hs]
  · simp only [List.flatMap_append, List.mem_append, not_or] at ha
    rw [k.mem a ha.2, h.mem a ha.1]
  · simp only [List.flatMap_append, List.mem_append, not_or] at ha
    have : t.poni = false := by rw [hs]; exact hp
    rw [k.ptabOff this a ha.2, h.ptabOff hp a ha.1]
  · simp only [List.flatMap_append, List.mem_append, not_or] at hi
    rw [k.ptabOn i hi.2, h.ptabOn i hi.1]

/-- A frame that lists less is a frame that lists more. -/
theorem State.Frame.weaken {rs rs' : List Reg} {fs fs' : List Flag} {gs gs' : List Target} {s t : State}
    (h : s.Frame rs fs gs t) (hr : rs ⊆ rs') (hf : fs ⊆ fs') (hg : gs ⊆ gs') : s.Frame rs' fs' gs' t := by
  have hm : ∀ (f : Target → List Nat) (a : Nat), a ∉ gs'.flatMap f → a ∉ gs.flatMap f := by
    intro f a ha hb
    simp only [List.mem_flatMap] at ha hb
    obtain ⟨g, hgm, hga⟩ := hb
    exact ha ⟨g, hg hgm, hga⟩
  exact ⟨fun r h' => h.regs r fun e => h' (hr e), fun f h' => h.flags f fun e => h' (hf e), h.levels, h.special,
    fun a h' => h.mem a (hm _ a h'), fun hp a h' => h.ptabOff hp a (hm _ a h'), fun i h' => h.ptabOn i (hm _ _ h')⟩

theorem State.frame_setReg (s : State) (c : Reg) (v : Word) : s.Frame [c] [] [] (s.setReg c v) := by
  refine ⟨fun r hr => s.reg_setReg_ne v (by simpa using hr), fun f _ => s.flag_setReg c v f,
    fun l hl => s.level_setReg_ne c v hl, rfl, fun _ _ => rfl, fun _ _ _ => rfl, fun _ _ => rfl⟩

theorem State.frame_setFlag (s : State) (f : Flag) (b : Bool) : s.Frame [] [f] [] (s.setFlag f b) := by
  refine ⟨fun r _ => s.reg_setFlag f b r, fun g hg => s.flag_setFlag_ne b (by simpa using hg),
    fun l hl => s.level_setFlag_ne f b hl, rfl, fun _ _ => rfl, fun _ _ _ => rfl, fun _ _ => rfl⟩

theorem State.frame_advance (s : State) : s.Frame [.p] [] [] s.advance := s.frame_setReg .p _

theorem State.frame_jump (s : State) (a : Word) : s.Frame [.p] [] [] (s.jump a) := s.frame_setReg .p a

/-- The targets that can be resolved lie within memory and page tables. -/
theorem store_memoryWf {g : Target} {v : Word} {s : State} (h : s.memoryWf) : (store g v s).memoryWf := by
  cases g with
  | mem pa =>
    refine ⟨Memory.wf_setWord h.1 ?_, h.2⟩
    have := pa.isLt
    unfold Memory.physBytes
    omega
  | ptab i =>
    refine ⟨h.1, Memory.wf_setWord h.2 ?_⟩
    have := i.isLt
    unfold Memory.ptabBytes
    omega
  | absent => exact h

/-- A store leaves every byte outside its target. -/
theorem frame_store (g : Target) (v : Word) {s : State} (h : s.memoryWf) : s.Frame [] [] [g] (store g v s) := by
  refine ⟨fun r _ => by cases g <;> rfl, fun f _ => by cases g <;> rfl, fun l _ => by cases g <;> rfl,
    by cases g <;> rfl, fun a ha => ?_, fun _ a ha => ?_, fun i hi => ?_⟩
  · cases g with
    | mem pa =>
      have hp : 2 * pa.toNat + 1 < Memory.physBytes := by
        have := pa.isLt; unfold Memory.physBytes; omega
      simp only [store, Target.memBytes, List.flatMap_cons, List.flatMap_nil, List.append_nil, List.mem_cons,
        List.not_mem_nil, or_false, not_or] at ha ⊢
      rw [Memory.get_setWord h.1 hp, if_neg ha.2, if_neg ha.1]
    | ptab i => rfl
    | absent => rfl
  · cases g with
    | mem pa => rfl
    | ptab i =>
      have hp : 2 * i.toNat + 1 < Memory.ptabBytes := by
        have := i.isLt; unfold Memory.ptabBytes; omega
      simp only [store, Target.ptabBytes, List.flatMap_cons, List.flatMap_nil, List.append_nil, List.mem_cons,
        List.not_mem_nil, or_false, not_or] at ha ⊢
      rw [Memory.get_setWord h.2 hp, if_neg ha.2, if_neg ha.1]
    | absent => rfl
  · cases g with
    | mem pa => rfl
    | ptab j =>
      have hp : 2 * j.toNat + 1 < Memory.ptabBytes := by
        have := j.isLt; unfold Memory.ptabBytes; omega
      simp only [store, Target.ptabBytes, List.flatMap_cons, List.flatMap_nil, List.append_nil, List.mem_cons,
        List.not_mem_nil, or_false, not_or] at hi ⊢
      rw [Memory.word_setWord h.2 hp, if_neg (by omega)]
    | absent => rfl

/-- What was stored at a target that is there is what it holds. -/
theorem wordAt_store {g : Target} (v : Word) {s : State} (h : s.memoryWf) (hg : g ≠ .absent) :
    (store g v s).wordAt g = v := by
  cases g with
  | mem pa =>
    have hp : 2 * pa.toNat + 1 < Memory.physBytes := by
      have := pa.isLt; unfold Memory.physBytes; omega
    simp [State.wordAt, store, Memory.word_setWord h.1 hp]
  | ptab i =>
    have hp : 2 * i.toNat + 1 < Memory.ptabBytes := by
      have := i.isLt; unfold Memory.ptabBytes; omega
    simp [State.wordAt, store, Memory.word_setWord h.2 hp]
  | absent => exact absurd rfl hg

theorem State.Accessed.memoryWf {s t : State} (h : s.Accessed t) (hw : s.memoryWf) : t.memoryWf :=
  ⟨by rw [h.mem]; exact hw.1, (h.bits hw.2).1⟩

end Sys2Proof.Machine
end

