-- ==== Sys2Proof/Laws/Keeps.lean ====
section
/-! SUPPORT. What the shared operations keep: a predicate that every small update keeps is kept by a whole instruction. -/

namespace Sys2Proof.Machine

/-- `P` holds while an instruction runs and `Q` after it: the small updates keep `P`, the end and an internal interrupt
give `Q`. -/
structure Steady (P Q : State → Prop) : Prop where
  reg : ∀ s c v, P s → P (s.setReg c v)
  sts : ∀ s v, P s → P (s.setStsLow v)
  free : ∀ s n, P s → P { s with free := n }
  mem : ∀ s (pa : PhysAddr) v, P s → P { s with mem := Memory.setWord s.mem pa.toNat v }
  ptab : ∀ s (i : BitVec 11) v, P s → P { s with ptab := Memory.setWord s.ptab i.toNat v }
  pgs : ∀ s g, P s → P { s with pgs := g }
  latch : ∀ s fch dma fat code pa, P s → P (s.latchError fch dma fat code pa)
  done : ∀ s, P s → Q s
  take : ∀ s c, P s → Q (s.takeInternal c)
  withdraw : ∀ s u t, P s → P u → Q t → Q { t with levels := s.levels, mem := s.mem, ptab := u.ptab }

/-- A part that goes on keeps `P`, one that stops answers with `Q`. -/
def Res.Keeps {α : Type} (P Q : State → Prop) (r : Res α) : Prop :=
  match r with
  | .ok _ s => P s
  | .stop o => Holds Q o

variable {P Q : State → Prop}

theorem holds_next {t : State} (h : Q t) : Holds Q (.next t) := by
  intro u e; cases e; exact h

theorem holds_refused {r : Refusal} : Holds Q (.refused r) := by intro u e; cases e

theorem holds_fault {r : Fault} : Holds Q (.fault r) := by intro u e; cases e

theorem keeps_ok {α : Type} {a : α} {s : State} (h : P s) : (Res.ok a s).Keeps P Q := h

theorem keeps_stop {α : Type} {o : Out} (h : Holds Q o) : (Res.stop o : Res α).Keeps P Q := h

theorem keeps_bind {α β : Type} {r : Res α} {k : α → State → Res β} (h : r.Keeps P Q)
    (hk : ∀ a u, P u → (k a u).Keeps P Q) : (r.bind k).Keeps P Q := by
  cases r with
  | ok a s => exact hk a s h
  | stop o => exact h

theorem holds_andThen {α : Type} {r : Res α} {k : α → State → Out} (h : r.Keeps P Q)
    (hk : ∀ a u, P u → Holds Q (k a u)) : Holds Q (r.andThen k) := by
  cases r with
  | ok a s => exact hk a s h
  | stop o => exact h

theorem keeps_mapRes {α β : Type} {f : α → State → Res β} (hf : ∀ x u, P u → (f x u).Keeps P Q) :
    ∀ {xs : List α} {s : State}, P s → (mapRes f xs s).Keeps P Q
  | [], _, h => h
  | _ :: _, _, h =>
    keeps_bind (hf _ _ h) fun _ _ hu => keeps_bind (keeps_mapRes hf hu) fun _ _ hw => keeps_ok hw

theorem keeps_pollLoop {f : State → Res Unit} (hf : ∀ u, P u → (f u).Keeps P Q) :
    ∀ {n : Nat} {s : State}, P s → (pollLoop f n s).Keeps P Q
  | 0, s, h => by
    unfold pollLoop
    split
    · exact h
    · exact keeps_bind (hf _ h) fun _ _ hu => keeps_ok hu
  | n + 1, s, h => by
    unfold pollLoop
    split
    · exact h
    · exact keeps_bind (hf _ h) fun _ _ hu => keeps_pollLoop hf hu

theorem keeps_repeatRes {f : State → Res Unit} (hf : ∀ u, P u → (f u).Keeps P Q) :
    ∀ {n : Nat} {s : State}, P s → (repeatRes f n s).Keeps P Q
  | 0, _, h => h
  | _ + 1, _, h => keeps_bind (hf _ h) fun _ _ hu => keeps_repeatRes hf hu

theorem keeps_listLoop {f : State → Res Unit} (hf : ∀ u, P u → (f u).Keeps P Q) :
    ∀ {n : Nat} {s : State}, P s → (listLoop f n s).Keeps P Q
  | 0, _, h => h
  | n + 1, s, h => by
    unfold listLoop
    split
    · exact h
    · exact keeps_bind (hf _ h) fun _ _ hu => keeps_listLoop hf hu

namespace Steady

variable (S : Steady P Q)
include S

theorem flag {s : State} (f : Flag) (b : Bool) (h : P s) : P (s.setFlag f b) := S.sts s _ h

theorem advance {s : State} (h : P s) : P s.advance := S.reg s _ _ h

theorem skip {s : State} (h : P s) : P s.skip := S.reg s _ _ h

theorem jump {s : State} (a : Word) (h : P s) : P (s.jump a) := S.reg s _ _ h

theorem regOr0 {s : State} (r : Option Reg) (v : Word) (h : P s) : P (s.setRegOr0 r v) := by
  cases r with
  | none => exact h
  | some c => exact S.reg s c v h

theorem overflow {s : State} (b : Bool) (h : P s) : P (s.setOverflow b) := S.flag _ _ (S.flag _ _ h)

theorem adder {s : State} (x y : Word) (c : Bool) (h : P s) : P (s.setAdderFlags x y c) :=
  S.overflow _ (S.flag _ _ h)

theorem raiseAfter {s : State} (c : BitVec 4) (h : P s) : Q (s.raiseAfter c) := by
  unfold State.raiseAfter
  split
  · exact S.take s c h
  · exact S.done s h

theorem error {s : State} (h : P s) : Q s.setErrorAndRaise := S.raiseAfter 5 (S.flag _ _ h)

theorem raiseAbort {s : State} (c : BitVec 4) (h : P s) : Holds Q (Sys2Proof.Machine.raiseAbort c s) := by
  unfold Sys2Proof.Machine.raiseAbort
  split
  · exact holds_next (S.take s c h)
  · exact holds_refused

theorem privileged {s : State} {k : Out} (h : P s) (hk : Holds Q k) : Holds Q (Sys2Proof.Machine.privileged s k) := by
  unfold Sys2Proof.Machine.privileged
  split
  · exact S.raiseAbort 6 h
  · exact hk

theorem mark {s : State} (e : BitVec 10) (w : Word) (h : P s) :
    P { s with ptab := Memory.setWord s.ptab (2 * e.toNat) w } := by
  have := S.ptab s (BitVec.ofNat 11 (2 * e.toNat)) w h
  rwa [show (BitVec.ofNat 11 (2 * e.toNat)).toNat = 2 * e.toNat from by
    have := e.isLt
    simp only [BitVec.toNat_ofNat]
    omega] at this

theorem translate {kind : AccessKind} {tbl : Table} {va : Word} {s : State} (h : P s) :
    (Sys2Proof.Machine.translate kind tbl va s).Keeps P Q := by
  unfold Sys2Proof.Machine.translate
  dsimp only
  split
  · exact S.mark _ _ h
  · exact S.raiseAbort _ (S.pgs _ _ h)
  · exact S.raiseAbort _ (S.pgs _ _ h)

theorem latchMemoryError {s : State} (kind : AccessKind) (pa : PhysAddr) (h : P s) : P (s.latchMemoryError kind pa) := by
  unfold State.latchMemoryError
  split
  · exact h
  · exact S.latch _ _ _ _ _ _ (S.free _ _ h)

theorem resolveMemory {kind : AccessKind} {pa : PhysAddr} {s : State} (h : P s) :
    (Sys2Proof.Machine.resolveMemory kind pa s).Keeps P Q := by
  unfold Sys2Proof.Machine.resolveMemory
  split
  · split
    · exact h
    · split
      · exact S.raiseAbort _ (S.latch _ _ _ _ _ _ h)
      · exact h
  · split
    · exact S.raiseAbort _ (S.latchMemoryError _ _ h)
    · exact h

theorem resolvePhys {kind : AccessKind} {pa : PhysAddr} {s : State} (h : P s) :
    (Sys2Proof.Machine.resolvePhys kind pa s).Keeps P Q := by
  unfold Sys2Proof.Machine.resolvePhys
  split
  · exact h
  · exact S.resolveMemory h

theorem resolve {kind : AccessKind} {tbl : Table} {va : Word} {s : State} (h : P s) :
    (Sys2Proof.Machine.resolve kind tbl va s).Keeps P Q := by
  unfold Sys2Proof.Machine.resolve
  split
  · exact S.resolvePhys h
  · split
    · exact h
    · exact keeps_bind (S.translate h) fun _ _ hu => S.resolveMemory hu

theorem peek {g : Target} {s : State} (h : P s) : P (Sys2Proof.Machine.peek g s).2 := by
  cases g with
  | mem pa => exact h
  | ptab i => exact h
  | absent => exact S.free _ _ h

theorem load {g : Target} {s : State} (h : P s) : (Sys2Proof.Machine.load g s).Keeps P Q := S.peek h

theorem fresh {s : State} (h : P s) : (freshWord s).Keeps P Q := S.free _ _ h

theorem store {g : Target} {v : Word} {s : State} (h : P s) : P (Sys2Proof.Machine.store g v s) := by
  cases g with
  | mem pa => exact S.mem _ _ _ h
  | ptab i => exact S.ptab _ _ _ h
  | absent => exact h

theorem storeList {gs : List Target} {vs : List Word} {s : State} (h : P s) :
    P (Sys2Proof.Machine.storeList gs vs s) := by
  induction gs generalizing vs s with
  | nil => exact h
  | cons g gs ih =>
    cases vs with
    | nil => exact h
    | cons v vs => exact ih (S.store h)

theorem readVirt {tbl : Table} {va : Word} {s : State} (h : P s) :
    (Sys2Proof.Machine.readVirt tbl va s).Keeps P Q := keeps_bind (S.resolve h) fun _ _ hu => S.load hu

theorem fetchWord {va : Word} {s : State} (h : P s) : (Sys2Proof.Machine.fetchWord va s).Keeps P Q :=
  keeps_bind (S.resolve h) fun _ _ hu => S.load hu

theorem readPhys {pa : PhysAddr} {s : State} (h : P s) : (Sys2Proof.Machine.readPhys pa s).Keeps P Q :=
  keeps_bind (S.resolvePhys h) fun _ _ hu => S.load hu

theorem writeVirt {tbl : Table} {va v : Word} {s : State} (h : P s) :
    (Sys2Proof.Machine.writeVirt tbl va v s).Keeps P Q :=
  keeps_bind (S.resolve h) fun _ _ hu => keeps_ok (S.store hu)

theorem writePhys {pa : PhysAddr} {v : Word} {s : State} (h : P s) :
    (Sys2Proof.Machine.writePhys pa v s).Keeps P Q :=
  keeps_bind (S.resolvePhys h) fun _ _ hu => keeps_ok (S.store hu)

theorem resolve2 {kind : AccessKind} {tbl : Table} {a b : Word} {s : State} (h : P s) :
    (Sys2Proof.Machine.resolve2 kind tbl a b s).Keeps P Q :=
  keeps_bind (S.resolve h) fun _ _ hu => keeps_bind (S.resolve hu) fun _ _ hw => keeps_ok hw

theorem readList {tbl : Table} {vas : List Word} {s : State} (h : P s) :
    (Sys2Proof.Machine.readList tbl vas s).Keeps P Q :=
  keeps_mapRes (fun _ _ hu => S.readVirt hu) h

theorem writeList {tbl : Table} {vas vs : List Word} {s : State} (h : P s) :
    (Sys2Proof.Machine.writeList tbl vas vs s).Keeps P Q :=
  keeps_bind (keeps_mapRes (fun _ _ hu => S.resolve hu) h) fun _ _ hu => keeps_ok (S.storeList hu)

theorem effAddr {m : MemOperand} {s : State} (h : P s) : (Sys2Proof.Machine.effAddr m s).Keeps P Q := by
  unfold Sys2Proof.Machine.effAddr
  split
  · exact keeps_bind (S.readVirt h) fun _ _ hu => keeps_ok hu
  · exact h

theorem readOperand {m : MemOperand} {s : State} (h : P s) : (Sys2Proof.Machine.readOperand m s).Keeps P Q :=
  keeps_bind (S.effAddr h) fun _ _ hu => S.readVirt hu

theorem writeOperand {m : MemOperand} {v : Word} {s : State} (h : P s) :
    (Sys2Proof.Machine.writeOperand m v s).Keeps P Q :=
  keeps_bind (S.effAddr h) fun _ _ hu => S.writeVirt hu

theorem readTwo {tbl : Table} {a : Word} {s : State} (h : P s) : (Sys2Proof.Machine.readTwo tbl a s).Keeps P Q :=
  keeps_bind (S.readVirt h) fun _ _ hu => keeps_bind (S.readVirt hu) fun _ _ hw => keeps_ok hw

theorem writeTwo {tbl : Table} {a v w : Word} {s : State} (h : P s) :
    (Sys2Proof.Machine.writeTwo tbl a v w s).Keeps P Q :=
  keeps_bind (S.resolve2 h) fun _ _ hu => keeps_ok (S.store (S.store hu))

theorem readThree {tbl : Table} {a : Word} {s : State} (h : P s) :
    (Sys2Proof.Machine.readThree tbl a s).Keeps P Q :=
  keeps_bind (S.readVirt h) fun _ _ hu => keeps_bind (S.readVirt hu) fun _ _ hw => keeps_bind (S.readVirt hw) fun _ _ hx =>
    keeps_ok hx

theorem writeThree {tbl : Table} {a u v w : Word} {s : State} (h : P s) :
    (Sys2Proof.Machine.writeThree tbl a u v w s).Keeps P Q :=
  keeps_bind (S.resolve2 h) fun _ _ hu => keeps_bind (S.resolve hu) fun _ _ hw =>
    keeps_ok (S.store (S.store (S.store hw)))

theorem storeIn {pass : Pass} {g : Target} {v : Word} {s : State} (h : P s) :
    P (Sys2Proof.Machine.storeIn pass g v s) := by
  cases pass with
  | check => exact h
  | perform => exact S.store h

theorem writeVirtIn {pass : Pass} {tbl : Table} {va v : Word} {s : State} (h : P s) :
    (Sys2Proof.Machine.writeVirtIn pass tbl va v s).Keeps P Q :=
  keeps_bind (S.resolve h) fun _ _ hu => keeps_ok (S.storeIn hu)

theorem writePhysIn {pass : Pass} {pa : PhysAddr} {v : Word} {s : State} (h : P s) :
    (Sys2Proof.Machine.writePhysIn pass pa v s).Keeps P Q :=
  keeps_bind (S.resolvePhys h) fun _ _ hu => keeps_ok (S.storeIn hu)

/-- What both passes of a part keep, the part keeps. -/
theorem inOrder {α : Type} {part : Pass → State → Res α} {s : State} (h : P s)
    (hp : ∀ pass, (part pass s).Keeps P Q) : (Sys2Proof.Machine.inOrder part s).Keeps P Q := by
  have hc := hp .check
  have hq := hp .perform
  unfold Sys2Proof.Machine.inOrder
  cases h1 : part .check s with
  | stop o => rw [h1] at hc; exact hc
  | ok b u =>
    rw [h1] at hc
    cases h2 : part .perform s with
    | ok a t => rw [h2] at hq; exact hq
    | stop o =>
      rw [h2] at hq
      intro t e
      cases o with
      | next v => cases e; exact S.withdraw s u v h hc (hq v rfl)
      | fault f => cases e
      | refused r => cases e

theorem modifyIn {pass : Pass} {tbl : Table} {a : Word} {f : Word → Word} {s : State} (h : P s) :
    (Sys2Proof.Machine.modifyIn pass tbl a f s).Keeps P Q :=
  keeps_bind (S.resolve h) fun _ _ hu => keeps_bind (S.resolve hu) fun _ _ hw => keeps_bind (S.load hw) fun _ _ hx =>
    keeps_ok (S.storeIn hx)

theorem modifyWord {tbl : Table} {a : Word} {f : Word → Word} {s : State} (h : P s) :
    (Sys2Proof.Machine.modifyWord tbl a f s).Keeps P Q := S.modifyIn h

theorem modifyPhys {pa : PhysAddr} {f : Word → Word} {s : State} (h : P s) :
    (Sys2Proof.Machine.modifyPhys pa f s).Keeps P Q :=
  keeps_bind (S.resolvePhys h) fun _ _ hu => keeps_bind (S.resolvePhys hu) fun _ _ hw =>
    keeps_bind (S.load hw) fun _ _ hx => keeps_ok (S.store hx)

theorem readByte {tbl : Table} {p : BytePlace} {s : State} (h : P s) :
    (Sys2Proof.Machine.readByte tbl p s).Keeps P Q := keeps_bind (S.readVirt h) fun _ _ hu => keeps_ok hu

theorem writeByteIn {pass : Pass} {tbl : Table} {p : BytePlace} {b : Byte} {s : State} (h : P s) :
    (Sys2Proof.Machine.writeByteIn pass tbl p b s).Keeps P Q := S.modifyIn h

theorem fillByteIn {pass : Pass} {tbl : Table} {b : Byte} {p : BytePlace} {s : State} (h : P s) :
    (Sys2Proof.Machine.fillByteIn pass tbl b p s).Keeps P Q :=
  keeps_bind (S.resolve h) fun _ _ hu => keeps_bind (S.load hu) fun _ _ hw => keeps_ok (S.storeIn hw)

theorem moveAll {src dst : ByteField} {n : Nat} {pass : Pass} {s : State} (h : P s) :
    (Sys2Proof.Machine.moveAll src dst n pass s).Keeps P Q :=
  keeps_bind (keeps_mapRes (fun _ _ hu => S.readByte hu) h) fun _ _ hu => keeps_mapRes (fun _ _ hw => S.writeByteIn hw) hu

theorem moveByte {src dst : Table} {pass : Pass} {q : BytePlace × BytePlace} {s : State} (h : P s) :
    (Sys2Proof.Machine.moveByte src dst pass q s).Keeps P Q :=
  keeps_bind (S.readByte h) fun _ _ hu => S.writeByteIn hu

theorem leaveWithError {pass : Pass} {s : State} (h : P s) :
    (Sys2Proof.Machine.leaveWithError pass s).Keeps P Q :=
  keeps_bind (S.readVirt h) fun _ _ h1 => keeps_bind (S.writeVirtIn h1) fun _ _ h2 =>
    keeps_bind (S.readVirt h2) fun _ _ h3 => keeps_bind (S.writeVirtIn h3) fun _ _ h4 => keeps_ok h4

theorem clearByWord {pass : Pass} {table : Word} {k : Nat} {s : State} (h : P s) :
    (Sys2Proof.Machine.clearByWord pass table k s).Keeps P Q :=
  keeps_bind (S.readPhys h) fun _ _ hu => keeps_mapRes (fun _ _ hw => S.writeVirtIn hw) hu

theorem setptElement {pass : Pass} {s : State} (h : P s) : (Sys2Proof.Machine.setptElement pass s).Keeps P Q :=
  keeps_bind (S.readPhys h) fun _ _ h1 => keeps_bind (S.readPhys h1) fun _ _ h2 => keeps_bind (S.readPhys h2) fun _ _ h3 =>
    keeps_bind (S.writeVirtIn h3) fun _ _ h4 => keeps_bind (S.writeVirtIn h4) fun _ _ h5 =>
      keeps_bind (S.readPhys h5) fun _ _ h6 => keeps_ok (S.reg _ _ _ (S.reg _ _ _ (S.reg _ _ _ (S.reg _ _ _ h6))))

theorem cleptFinish {pass : Pass} {w a : Word} {s : State} (h : P s) :
    (Sys2Proof.Machine.cleptFinish pass w a s).Keeps P Q := by
  refine keeps_bind ?_ fun _ _ hu => keeps_bind (S.readPhys hu) fun _ _ hw =>
    keeps_ok (S.reg _ _ _ (S.reg _ _ _ (S.reg _ _ _ hw)))
  unfold cleptSave
  split
  · exact h
  · exact keeps_bind (S.writePhysIn h) fun _ _ hu => S.writeVirtIn hu

theorem cleptRead {s : State} (h : P s) : (Sys2Proof.Machine.cleptRead s).Keeps P Q :=
  keeps_bind (S.readPhys h) fun _ _ hu => keeps_bind (S.readVirt hu) fun _ _ hw => keeps_ok hw

theorem cleptElement {pass : Pass} {s : State} (h : P s) : (Sys2Proof.Machine.cleptElement pass s).Keeps P Q :=
  keeps_bind (S.cleptRead h) fun _ _ hu => S.cleptFinish hu

theorem resolvePageMap {kind : AccessKind} {page : BitVec 7} {s : State} (h : P s) :
    (Sys2Proof.Machine.resolvePageMap kind page s).Keeps P Q := by
  unfold Sys2Proof.Machine.resolvePageMap
  dsimp only
  split
  · exact S.resolvePhys h
  · exact S.resolve h

theorem clepuElement {pass : Pass} {s : State} (h : P s) : (Sys2Proof.Machine.clepuElement pass s).Keeps P Q :=
  keeps_bind (S.cleptRead h) fun _ _ hu =>
    keeps_bind (keeps_bind (S.resolvePageMap hu) fun _ _ h1 => keeps_bind (S.resolvePageMap h1) fun _ _ h2 =>
      keeps_bind (S.load h2) fun _ _ h3 => keeps_ok (S.storeIn h3)) fun _ _ hw => S.cleptFinish hw

theorem clptElement {pass : Pass} {s : State} (h : P s) : (Sys2Proof.Machine.clptElement pass s).Keeps P Q := by
  refine keeps_bind (S.readPhys h) fun w u hu => keeps_bind ?_ fun _ _ hw => keeps_bind (S.readPhys hw) fun _ _ hx =>
    keeps_ok (S.reg _ _ _ (S.reg _ _ _ hx))
  unfold clptEntry
  dsimp only
  split
  · exact S.writeVirtIn hu
  · refine keeps_bind (S.readVirt hu) fun r v hv => ?_
    split
    · exact hv
    · refine keeps_bind (S.writePhysIn hv) fun _ x hx => ?_
      split
      · exact S.writeVirtIn hx
      · exact hx

theorem enterElement {mask : Word} {pass : Pass} {s : State} (h : P s) :
    (Sys2Proof.Machine.enterElement mask pass s).Keeps P Q :=
  keeps_bind (S.readPhys h) fun _ _ h1 => keeps_bind (S.readPhys h1) fun _ _ h2 => keeps_bind (S.writeVirtIn h2) fun _ _ h3 =>
    keeps_bind (S.writeVirtIn h3) fun _ _ h4 => keeps_bind (S.readPhys h4) fun _ _ h5 =>
      keeps_ok (S.reg _ _ _ (S.reg _ _ _ (S.reg _ _ _ h5)))

theorem oldBackLink {r1 : Word} {s : State} (h : P s) : (Sys2Proof.Machine.oldBackLink r1 s).Keeps P Q := by
  unfold Sys2Proof.Machine.oldBackLink
  split
  · exact h
  · exact keeps_bind (S.resolvePhys h) fun _ _ hu => keeps_bind (S.resolvePhys hu) fun _ _ hw => keeps_ok hw

theorem takeBackLink {old : Option (Target × Target)} {s : State} (h : P s) :
    (Sys2Proof.Machine.takeBackLink old s).Keeps P Q := by
  cases old with
  | none => exact h
  | some g => exact keeps_bind (S.load h) fun _ _ hu => keeps_ok (S.store hu)

theorem successorLink {r1 : Word} {s : State} (h : P s) : (Sys2Proof.Machine.successorLink r1 s).Keeps P Q := by
  unfold Sys2Proof.Machine.successorLink
  split
  · exact h
  · exact keeps_bind (S.resolvePhys h) fun _ _ hu => keeps_ok hu

theorem accumulator {s : State} (w : BitVec 48) (h : P s) : P (s.setAccumulator w) := by
  unfold State.setAccumulator
  dsimp only
  split
  · exact S.reg _ _ _ (S.reg _ _ _ (S.reg _ _ _ h))
  · exact S.reg _ _ _ (S.reg _ _ _ h)

theorem readFloat {m : MemOperand} {s : State} (h : P s) : (Sys2Proof.Machine.readFloat m s).Keeps P Q := by
  refine keeps_bind (S.effAddr h) fun p u hu => ?_
  split
  · exact keeps_bind (S.readThree hu) fun _ _ hw => keeps_ok hw
  · exact keeps_bind (S.readTwo hu) fun _ _ hw => keeps_ok hw

end Steady

end Sys2Proof.Machine
end

