-- ==== Sys2Proof/Laws/Plain.lean ====
section
/-! SUPPORT. Accesses with paging off and memory everywhere; EXR and the dispatch. -/

namespace Sys2Proof.Machine

/-- A physical access reaches its target and changes nothing. -/
theorem resolvePhys_plain {s : State} (h : s.plain) (kind : AccessKind) (pa : PhysAddr) :
    resolvePhys kind pa s = .ok (s.physTarget pa) s := by
  unfold resolvePhys State.physTarget resolveMemory
  split
  · rfl
  · simp [h.2.1 pa, State.badWord, h.2.2]

/-- So does a virtual one. -/
theorem resolve_plain {s : State} (h : s.plain) (kind : AccessKind) (tbl : Table) (va : Word) :
    resolve kind tbl va s = .ok (s.wordTarget va) s := by
  simp [resolve, h.1, resolvePhys_plain h, State.wordTarget]

/-- Memory everywhere is never absent. -/
theorem physTarget_ne_absent (s : State) (pa : PhysAddr) : s.physTarget pa ≠ .absent := by
  unfold State.physTarget
  split <;> simp

/-- What a read of a target that is not absent gives. -/
theorem peek_of_ne_absent {g : Target} (h : g ≠ .absent) (s : State) : peek g s = (s.wordAt g, s) := by
  cases g <;> first | rfl | exact absurd rfl h

theorem readPhys_plain {s : State} (h : s.plain) (pa : PhysAddr) : readPhys pa s = .ok (s.physWord pa) s := by
  simp [readPhys, resolvePhys_plain h, load, peek_of_ne_absent (physTarget_ne_absent s pa), State.physWord]

theorem readVirt_plain {s : State} (h : s.plain) (tbl : Table) (va : Word) : readVirt tbl va s = .ok (s.word va) s := by
  simp [readVirt, resolve_plain h, load, State.wordTarget, peek_of_ne_absent (physTarget_ne_absent s _), State.word,
    State.physWord]

theorem writePhys_plain {s : State} (h : s.plain) (pa : PhysAddr) (v : Word) :
    writePhys pa v s = .ok () (store (s.physTarget pa) v s) := by
  simp [writePhys, resolvePhys_plain h]

theorem writeVirt_plain {s : State} (h : s.plain) (tbl : Table) (va v : Word) :
    writeVirt tbl va v s = .ok () (store (s.wordTarget va) v s) := by
  simp [writeVirt, resolve_plain h]

/-- A store keeps memory everywhere and paging off. -/
theorem plain_store {s : State} (h : s.plain) (g : Target) (v : Word) : (store g v s).plain := by
  cases g <;> exact h

/-- So does a register. -/
theorem plain_setReg {s : State} (h : s.plain) (r : Reg) (v : Word) : (s.setReg r v).plain := h

/-- A store does not move targets. -/
theorem physTarget_store (s : State) (g : Target) (v : Word) (pa : PhysAddr) :
    (store g v s).physTarget pa = s.physTarget pa := by
  cases g <;> rfl

theorem physTarget_setReg (s : State) (r : Reg) (v : Word) (pa : PhysAddr) :
    (s.setReg r v).physTarget pa = s.physTarget pa := rfl

/-- The inner execution of EXR is the dispatch, for every instruction but EXR. -/
theorem execInner_eq_exec (i : Instr) (s : State) (h : ∀ r, i ≠ .exr r) : execInner i s = exec i s := by
  cases i <;> first | rfl | exact absurd rfl (h _)

end Sys2Proof.Machine
end

