-- ==== Sys2Proof/Laws/Refused.lean ====
section
/-! SUPPORT. A refused access ends an instruction before it changes a register or a word: one lemma per shared operation
(spec/60_exceptions.md R492). -/

namespace Sys2Proof.Machine

/-- Accesses that are refused leave every register and every word. -/
structure Res.Refuses {α : Type} (r : Res α) (s : State) : Prop where
  stop : ∀ o, r = .stop o → s.Refused o

theorem Res.refuses_ok {α : Type} (a : α) (s t : State) : (Res.ok a s).Refuses t :=
  ⟨fun o e => by cases e⟩

/-- What an access changes before the next one is refused does not count. -/
theorem State.Accessed.refused {s t : State} {o : Out} (h : s.Accessed t) (k : t.Refused o) : s.Refused o := by
  obtain ⟨code, hc, u, rfl, hu⟩ := k
  have e := h.eq
  have ht : t.pgs = s.pgs ∧ t.pes = s.pes ∧ t.pea = s.pea ∧ t.peLocked = s.peLocked := by rw [e]; exact ⟨rfl, rfl, rfl, rfl⟩
  rw [ht.1, ht.2.1, ht.2.2.1, ht.2.2.2] at hu
  exact ⟨code, hc, u, rfl, h.trans hu⟩

/-- A sequence of accesses. -/
theorem Res.refuses_bind {α β : Type} {r : Res α} {k : α → State → Res β} {s : State} (h : r.Refuses s)
    (hr : ∀ a u, r = .ok a u → s.Accessed u) (hk : ∀ a u, (k a u).Refuses u) : (r.bind k).Refuses s := by
  refine ⟨fun o e => ?_⟩
  rcases Res.bind_eq_stop e with e | ⟨a, u, e1, e2⟩
  · exact h.stop o e
  · exact (hr a u e1).refused ((hk a u).stop o e2)

/-- A memory error is latched in PES and PEA alone. -/
theorem latchError_cases (s : State) (fch dma fat : Bool) (code : BitVec 5) (pa : PhysAddr) :
    ∃ w v b, s.latchError fch dma fat code pa = { s with pes := w, pea := v, peLocked := b } := by
  unfold State.latchError
  split
  · exact ⟨_, _, _, rfl⟩
  · exact ⟨_, _, _, rfl⟩

theorem latchMemoryError_cases (s : State) (kind : AccessKind) (pa : PhysAddr) :
    ∃ w v b n, s.latchMemoryError kind pa = { s with pes := w, pea := v, peLocked := b, free := n } := by
  unfold State.latchMemoryError
  split
  · exact ⟨_, _, _, _, rfl⟩
  · obtain ⟨w, v, b, e⟩ := latchError_cases { s with free := s.free + 1 } (kind == .fetch) false
      ((Config.freeWord s.free).getLsbD 5) ((Config.freeWord s.free).extractLsb' 0 5) pa
    exact ⟨w, v, b, s.free + 1, e⟩

theorem resolveMemory_refuses (kind : AccessKind) (pa : PhysAddr) (s : State) : (resolveMemory kind pa s).Refuses s := by
  refine ⟨fun o e => ?_⟩
  unfold resolveMemory at e
  split at e
  · split at e
    · cases e
    · split at e
      · cases e
        obtain ⟨w, v, b, e⟩ := latchError_cases s (kind == .fetch) false _ _ pa
        exact ⟨0o10, by decide, { s with pes := w, pea := v, peLocked := b }, by rw [e], .refl s⟩
      · cases e
  · split at e
    · cases e
      obtain ⟨w, v, b, n, e⟩ := latchMemoryError_cases s kind pa
      exact ⟨0o11, by decide, { s with pes := w, pea := v, peLocked := b, free := n }, by rw [e], rfl, fun _ => rfl,
        fun h => ⟨h, fun _ => rfl⟩⟩
    · cases e

theorem resolvePhys_refuses (kind : AccessKind) (pa : PhysAddr) (s : State) : (resolvePhys kind pa s).Refuses s := by
  unfold resolvePhys
  split
  · exact Res.refuses_ok _ _ _
  · exact resolveMemory_refuses kind pa s

theorem translate_refuses (kind : AccessKind) (tbl : Table) (va : Word) (s : State) :
    (translate kind tbl va s).Refuses s := by
  refine ⟨fun o e => ?_⟩
  unfold translate at e
  dsimp only at e
  split at e <;> cases e
  · exact ⟨_, by decide, _, rfl, .refl s⟩
  · exact ⟨_, by decide, _, rfl, .refl s⟩

theorem resolve_refuses (kind : AccessKind) (tbl : Table) (va : Word) (s : State) : (resolve kind tbl va s).Refuses s := by
  unfold resolve
  split
  · exact resolvePhys_refuses _ _ _
  · next hp =>
    split
    · exact Res.refuses_ok _ _ _
    · exact Res.refuses_bind (translate_refuses ..) (fun _ _ e => translate_accessed (by simpa using hp) e)
        fun _ _ => resolveMemory_refuses ..

theorem load_refuses (g : Target) (s : State) : (load g s).Refuses s := Res.refuses_ok _ _ _

theorem readVirt_refuses (tbl : Table) (va : Word) (s : State) : (readVirt tbl va s).Refuses s :=
  Res.refuses_bind (resolve_refuses ..) (fun _ _ e => resolve_accessed e) load_refuses

theorem readPhys_refuses (pa : PhysAddr) (s : State) : (readPhys pa s).Refuses s :=
  Res.refuses_bind (resolvePhys_refuses ..) (fun _ _ e => by rw [resolvePhys_ok e]; exact .refl s) load_refuses

theorem resolve2_refuses (kind : AccessKind) (tbl : Table) (a b : Word) (s : State) :
    (resolve2 kind tbl a b s).Refuses s :=
  Res.refuses_bind (resolve_refuses ..) (fun _ _ e => resolve_accessed e) fun _ _ =>
    Res.refuses_bind (resolve_refuses ..) (fun _ _ e => resolve_accessed e) fun _ _ => Res.refuses_ok _ _ _

theorem mapRes_refuses {α β : Type} {f : α → State → Res β} (hf : ∀ x u, (f x u).Refuses u)
    (ha : ∀ x u y w, f x u = .ok y w → State.Accessed u w) :
    ∀ (xs : List α) (s : State), (mapRes f xs s).Refuses s
  | [], _ => Res.refuses_ok _ _ _
  | x :: xs, s =>
    Res.refuses_bind (hf x s) (fun _ _ e => ha _ _ _ _ e) fun _ u =>
      Res.refuses_bind (mapRes_refuses hf ha xs u) (fun _ _ e => (mapRes_accessed ha e).1) fun _ _ => Res.refuses_ok _ _ _

theorem effAddr_refuses (m : MemOperand) (s : State) : (effAddr m s).Refuses s := by
  unfold effAddr
  split
  · exact Res.refuses_bind (readVirt_refuses ..) (fun _ _ e => readVirt_accessed e) fun _ _ => Res.refuses_ok _ _ _
  · exact Res.refuses_ok _ _ _

theorem readOperand_refuses (m : MemOperand) (s : State) : (readOperand m s).Refuses s :=
  Res.refuses_bind (effAddr_refuses ..) (fun _ _ e => effAddr_accessed e) fun _ _ => readVirt_refuses ..

theorem readTwo_refuses (tbl : Table) (a : Word) (s : State) : (readTwo tbl a s).Refuses s :=
  Res.refuses_bind (readVirt_refuses ..) (fun _ _ e => readVirt_accessed e) fun _ _ =>
    Res.refuses_bind (readVirt_refuses ..) (fun _ _ e => readVirt_accessed e) fun _ _ => Res.refuses_ok _ _ _

theorem readThree_refuses (tbl : Table) (a : Word) (s : State) : (readThree tbl a s).Refuses s :=
  Res.refuses_bind (readVirt_refuses ..) (fun _ _ e => readVirt_accessed e) fun _ _ =>
    Res.refuses_bind (readVirt_refuses ..) (fun _ _ e => readVirt_accessed e) fun _ _ =>
      Res.refuses_bind (readVirt_refuses ..) (fun _ _ e => readVirt_accessed e) fun _ _ => Res.refuses_ok _ _ _

theorem readList_refuses (tbl : Table) (vas : List Word) (s : State) : (readList tbl vas s).Refuses s :=
  mapRes_refuses (fun _ _ => readVirt_refuses ..) (fun _ _ _ _ e => readVirt_accessed e) vas s

theorem readFloat_refuses (m : MemOperand) (s : State) : (readFloat m s).Refuses s := by
  refine Res.refuses_bind (effAddr_refuses ..) (fun _ _ e => effAddr_accessed e) fun p u => ?_
  split
  · exact Res.refuses_bind (readThree_refuses ..) (fun _ _ e => readThree_accessed e) fun _ _ => Res.refuses_ok _ _ _
  · exact Res.refuses_bind (readTwo_refuses ..) (fun _ _ e => readTwo_accessed e) fun _ _ => Res.refuses_ok _ _ _

/-! ### Parts whose writes are withdrawn -/

/-- A part that has written no more than registers, memory and page tables. -/
def State.Writing (s t : State) : Prop :=
  { t with levels := s.levels, mem := s.mem, ptab := s.ptab, free := s.free } = s

theorem State.Writing.trans {s t u : State} (h : s.Writing t) (k : t.Writing u) : s.Writing u := by
  unfold State.Writing at *
  rw [← h, ← k]

theorem State.Accessed.writing {s t : State} (h : s.Accessed t) : s.Writing t := by
  have := h.same
  unfold State.Writing
  rw [h.eq]

theorem store_writing (g : Target) (v : Word) (s : State) : s.Writing (store g v s) := by
  cases g <;> rfl

theorem storeIn_writing (pass : Pass) (g : Target) (v : Word) (s : State) : s.Writing (storeIn pass g v s) := by
  cases pass
  · rfl
  · exact store_writing g v s

/-- A part that goes on has written no more than registers, memory and page tables; one that stops raises the code of a
refused access there. -/
structure Res.Raises {α : Type} (r : Res α) (s : State) : Prop where
  ok : ∀ a u, r = .ok a u → s.Writing u
  stop : ∀ o, r = .stop o → ∃ code ∈ [2#4, 3, 0o10, 0o11], ∃ u, o = raiseAbort code u ∧
    s.Writing { u with pgs := s.pgs, pes := s.pes, pea := s.pea, peLocked := s.peLocked }

theorem Res.raises_ok {α : Type} (a : α) {s t : State} (h : t.Writing s) : (Res.ok a s).Raises t :=
  ⟨fun b u e => by cases e; exact h, fun o e => by cases e⟩

/-- Accesses alone. -/
theorem Res.Refuses.raises {α : Type} {r : Res α} {s : State} (h : r.Refuses s)
    (ha : ∀ a u, r = .ok a u → s.Accessed u) : r.Raises s := by
  refine ⟨fun a u e => (ha a u e).writing, fun o e => ?_⟩
  obtain ⟨code, hc, u, ho, hu⟩ := h.stop o e
  exact ⟨code, hc, u, ho, hu.writing⟩

theorem Res.raises_bind {α β : Type} {r : Res α} {k : α → State → Res β} {s : State} (h : r.Raises s)
    (hk : ∀ a u, (k a u).Raises u) : (r.bind k).Raises s := by
  refine ⟨fun b w e => ?_, fun o e => ?_⟩
  · obtain ⟨a, u, e1, e2⟩ := Res.bind_eq_ok e
    exact (h.ok a u e1).trans ((hk a u).ok b w e2)
  · rcases Res.bind_eq_stop e with e | ⟨a, u, e1, e2⟩
    · exact h.stop o e
    · obtain ⟨code, hc, w, ho, hw⟩ := (hk a u).stop o e2
      have hs := h.ok a u e1
      have hp : u.pgs = s.pgs ∧ u.pes = s.pes ∧ u.pea = s.pea ∧ u.peLocked = s.peLocked := by
        unfold State.Writing at hs
        rw [← hs]
        exact ⟨rfl, rfl, rfl, rfl⟩
      rw [hp.1, hp.2.1, hp.2.2.1, hp.2.2.2] at hw
      exact ⟨code, hc, w, ho, hs.trans hw⟩

theorem mapRes_raises {α β : Type} {f : α → State → Res β} (hf : ∀ x u, (f x u).Raises u) :
    ∀ (xs : List α) (s : State), (mapRes f xs s).Raises s
  | [], _ => Res.raises_ok _ rfl
  | x :: xs, s => Res.raises_bind (hf x s) fun _ u =>
      Res.raises_bind (mapRes_raises hf xs u) fun _ _ => Res.raises_ok _ rfl

theorem resolve_raises (kind : AccessKind) (tbl : Table) (va : Word) (s : State) : (resolve kind tbl va s).Raises s :=
  (resolve_refuses ..).raises fun _ _ e => resolve_accessed e

theorem readVirt_raises (tbl : Table) (va : Word) (s : State) : (readVirt tbl va s).Raises s :=
  (readVirt_refuses ..).raises fun _ _ e => readVirt_accessed e

theorem load_raises (g : Target) (s : State) : (load g s).Raises s :=
  (load_refuses g s).raises fun _ _ e => load_accessed e

theorem writeVirtIn_raises (pass : Pass) (tbl : Table) (va v : Word) (s : State) :
    (writeVirtIn pass tbl va v s).Raises s :=
  Res.raises_bind (resolve_raises ..) fun _ _ => Res.raises_ok _ (storeIn_writing ..)

theorem modifyIn_raises (pass : Pass) (tbl : Table) (a : Word) (f : Word → Word) (s : State) :
    (modifyIn pass tbl a f s).Raises s :=
  Res.raises_bind (resolve_raises ..) fun _ _ => Res.raises_bind (resolve_raises ..) fun _ _ =>
    Res.raises_bind (load_raises ..) fun _ _ => Res.raises_ok _ (storeIn_writing ..)

/-- A part of accesses in order that is refused, by its checks or by its own writes, leaves every register and every word. -/
theorem inOrder_refuses {α : Type} {part : Pass → State → Res α} {s : State} (hc : (part .check s).Refuses s)
    (ha : ∀ a u, part .check s = .ok a u → s.Accessed u) (hp : (part .perform s).Raises s) :
    (inOrder part s).Refuses s := by
  refine ⟨fun o e => ?_⟩
  rcases inOrder_stop e with e | ⟨b, u, p, e1, e2, rfl⟩
  · exact hc.stop o e
  · obtain ⟨code, hc, v, rfl, hv⟩ := hp.stop p e2
    have hu := ha b u e1
    rw [withoutWrites_raiseAbort]
    exact ⟨code, hc, _, rfl, hv, hu.off, hu.bits⟩

end Sys2Proof.Machine
end

