-- ==== Sys2Proof/Machine/External.lean ====
section
/-! DEFINITION. What the outside does to the machine between two instructions (log 12). No step performs these. -/

namespace Sys2Proof.Machine

/-- A device on level 10, 11, 12 or 13 requests an interrupt with its ident code, behind the devices that are nearer to
the CPU (spec/60_exceptions.md R488). -/
def State.deviceRequest10 (s : State) (nearer : Nat) (ident : BitVec 9) : State :=
  { s with req10 := s.req10.take nearer ++ ident :: s.req10.drop nearer, pid := putBit s.pid 10 true }

/-- The same on level 11. -/
def State.deviceRequest11 (s : State) (nearer : Nat) (ident : BitVec 9) : State :=
  { s with req11 := s.req11.take nearer ++ ident :: s.req11.drop nearer, pid := putBit s.pid 11 true }

/-- The same on level 12. -/
def State.deviceRequest12 (s : State) (nearer : Nat) (ident : BitVec 9) : State :=
  { s with req12 := s.req12.take nearer ++ ident :: s.req12.drop nearer, pid := putBit s.pid 12 true }

/-- The same on level 13. -/
def State.deviceRequest13 (s : State) (nearer : Nat) (ident : BitVec 9) : State :=
  { s with req13 := s.req13.take nearer ++ ident :: s.req13.drop nearer, pid := putBit s.pid 13 true }

/-- The unvectored line of level 15 (R488). -/
def State.lineRequest15 (s : State) : State := { s with pid := putBit s.pid 15 true }

/-- An external device on level 14: level 14 then runs with IIC as it is (R473). -/
def State.lineRequest14 (s : State) : State := { s with pid := putBit s.pid 14 true }

/-- Power failure, code 0o12, between two instructions (R486). -/
def State.powerFail (s : State) : State := s.raiseAfter 0o12

/-- The memory system begins to fail an access to a word: the accesses of that kind then meet the parity error (R483,
spec/20_memory.md R105; log 54). -/
def State.memoryFails (s : State) (w : BadWord) : State := { s with badWords := w :: s.badWords }

/-- The memory system fails no access any more (log 54). -/
def State.memoryMends (s : State) : State := { s with badWords := [] }

/-- A parity error of a DMA reference between two instructions: PES, with DMA, and PEA latch and code 0o10 is raised,
unless it is not reported (R476, R483, spec/10_state.md R43, R44; log 54). -/
def State.dmaParityError (s : State) (pa : PhysAddr) (fatal : Bool) (code : BitVec 5) : State :=
  if s.parityEnabled then (s.latchError false true fatal code pa).takeInternal 0o10 else s

/-- The operator restarts a stopped machine (R500). -/
def State.operatorRestart (s : State) : State :=
  match s.run with
  | .stopped => { s with run := .running }
  | _ => s

/-- The OPCOM button (R499). -/
def State.pressOpcom (s : State) : State := { s with run := .opcom }

/-- The operator writes OPR (spec/10_state.md R39). -/
def State.writeOpr (s : State) (w : Word) : State := { s with opr := w }

/-- The panel processor completes its command (spec/10_state.md R38): data if it was asked for, else the data byte of
PANC. That FIF (buffer ready) becomes 1 with every completed command, and is never cleared, is the model's choice
(log 46). -/
def State.panelCompletes (s : State) (data : Byte) : State :=
  { s with
    panel :=
      { s.panel with
        fif := true
        dat := s.panel.ctlDat
        rdy := true
        cmnd := s.panel.ctlCmnd
        rpan := if s.panel.ctlDat then data else s.panel.ctlRpan } }

/-- The number of elements after which the next poll of an interruptible instruction finds an interrupt (log 9). -/
def State.nextPoll (s : State) (n : Nat) : State := { s with pollAfter := n }

end Sys2Proof.Machine
end

