-- ==== Sys2Proof/Tests/Slice0.lean ====
section
/-! SUPPORT. Tests of the model: ill-formed terms, words written from the encodings, the vectors of
spec/95_test_vectors.md run through `step`, and for each obligation with hypotheses a state that meets them. -/

namespace Sys2Proof.Tests

open Sys2Proof.Machine

/-! ### Well-formedness: each check refuses (log 41) -/

theorem test_copy_of_zero_refused : (Instr.copy none (some .a)).wellFormed = false := by decide

theorem test_copy_l_p_refused : (Instr.copy (some .l) (some .p)).wellFormed = false := by decide

theorem test_radd_cld_refused : (Instr.radd false false false true (some .a) (some .b)).wellFormed = false := by decide

theorem test_radd_cm1_refused : (Instr.radd false false true false none (some .b)).wellFormed = false := by decide

theorem test_radd_ad1_refused : (Instr.radd false true false false none (some .b)).wellFormed = false := by decide

theorem test_radd_ad1_cm1_refused : (Instr.radd false true true false (some .t) (some .b)).wellFormed = false := by
  decide

theorem test_radd_accepted : (Instr.radd true false true true (some .t) (some .b)).wellFormed = true := by decide

/-! ### Decoding: words written field by field from spec/30_encoding.md R131 to R142 -/

/-- MEM: op code 01001, X, I, B, displacement (R131); LDA ,X I 3 of spec/41_memory_transfer.md R202. -/
theorem test_decode_mem :
    decodeWord 0b01001_1_1_0_00000011 = .ok (.lda { x := true, i := true, b := false, disp := 3 }) := by decide

/-- CJP: JNC, condition 101 (R132). -/
theorem test_decode_cjp : decodeWord 0b10110_101_11111101 = .ok (.jnc 0o375) := by decide

/-- SKP: condition, sr, dr (R135): DB LSS SA. -/
theorem test_decode_skp : decodeWord 0b11000_101_00_101_011 = .ok (.skp .lss (some .a) (some .b)) := by decide

/-- FIX: ADDD is 0o140120 (R140). -/
theorem test_decode_fix : decodeWord 0b1100000001010000 = .ok .addd := by decide

/-- EXR SA, in the extended space (R141). -/
theorem test_decode_exr : decodeWord 0b1100000110_101_000 = .ok (.exr (some .a)) := by decide

/-- Delta in bits 5-3 (R141): LDATX 20 (spec/48_privileged.md R399). -/
theorem test_decode_delta : decodeWord 0b1100011011_010_000 = .ok (.ldatx 2) := by decide

/-- ROP: RAD, C, I, CM1, CLD, sr, dr (R133): RADD ADC CM1 ST DB. -/
theorem test_decode_radd :
    decodeWord 0b11001_1_1_0_1_0_110_011 = .ok (.radd true false true false (some .t) (some .b)) := by decide

/-- RAND CM1 ST DB of spec/95_test_vectors.md S14. -/
theorem test_decode_rand : decodeWord 0b11001_0_0_1_1_0_110_011 = .ok (.rand true false (some .t) (some .b)) := by decide

/-- RSUB ST DB is the RADD AD1 CM1 of R184. -/
theorem test_decode_rsub : decodeWord 0b11001_1_0_1_1_0_110_011 = .ok (.rsub (some .t) (some .b)) := by decide

/-- The system group (R142): TRA ALD. -/
theorem test_decode_internal : decodeWord 0b110100000000_1010 = .ok (.tra 0o12) := by decide

/-- IRR 160 DP: level, dr (R142). -/
theorem test_decode_interlevel : decodeWord 0b110101111_1110_010 = .ok (.irr 14 (.reg .p)) := by decide

/-- SHF: type, register, a zero, count (R134): SHA SHR 3. -/
theorem test_decode_shift : decodeWord 0b11011_00_10_0_111101 = .ok (.sha .arith 0o75) := by decide

/-- IOX with an 11-bit address (R138). -/
theorem test_decode_iox : decodeWord 0b11101_00011000001 = .ok (.iox 0o301) := by decide

/-- ARG8: SAT 13 (R136). -/
theorem test_decode_argument : decodeWord 0b11110010_00001011 = .ok (.sat 0o13) := by decide

/-- FCV: DNZ -20 (R139). -/
theorem test_decode_conversion : decodeWord 0b11010100_11110000 = .ok (.dnz 0o360) := by decide

/-- BOP: operation, bn, dr (R137): BORC 60 DX. -/
theorem test_decode_bit : decodeWord 0b11111_1110_0110_111 = .ok (.borc 6 (.reg .x)) := by decide

/-- An undefined word is refused by name (R160). -/
theorem test_decode_undefined : decodeWord 0o160000 = .error (.undefinedWord 0o160000) := by decide

/-- The number of a table row is its word. -/
theorem test_decode_table_word : decodeTableWord 16 0o170401 = some (.saa 1) := by decide

/-! ### Vectors of spec/95_test_vectors.md -/

/-- A part of a state before or after a vector. -/
inductive Part where
  | reg (r : Reg) (v : Word)
  | mem (a : Nat) (v : Word)
  | ptab (i : Nat) (v : Word)
  | sts (v : Byte)
  deriving DecidableEq, Repr

/-- The state with a part set. -/
def Part.put (s : State) (p : Part) : State :=
  match p with
  | .reg r v => s.setReg r v
  | .mem a v => { s with mem := Memory.setWord s.mem a v }
  | .ptab i v => { s with ptab := Memory.setWord s.ptab i v }
  | .sts v => s.setStsLow v

/-- The state has the part. -/
def Part.holds (s : State) (p : Part) : Bool :=
  match p with
  | .reg r v => s.reg r == v
  | .mem a v => Memory.word s.mem a == v
  | .ptab i v => Memory.word s.ptab i == v
  | .sts v => s.stsLow == v

/-- The part is about the register. -/
def Part.isReg (r : Reg) (p : Part) : Bool :=
  match p with
  | .reg q _ => q == r
  | _ => false

/-- The part is the status byte. -/
def Part.isSts (p : Part) : Bool :=
  match p with
  | .sts _ => true
  | _ => false

/-- The reset state with parts set, P at an address. -/
def start (before : List Part) (pc : Word := 0o1000) : State := before.foldl Part.put (State.reset.setReg .p pc)

/-- The next state satisfies a test. -/
def nextHas (o : Out) (f : State → Bool) : Bool :=
  match o with
  | .next t => f t
  | _ => false

/-- What a vector says: one step of the word; registers and status that are not listed stay. -/
def vector (w : Word) (before after : List Part) (pc : Word) (at_ : Word := 0o1000) (fp48 : Bool := false) : Bool :=
  let s := start (before ++ [.mem at_.toNat w]) at_
  let s := { s with cfg := { s.cfg with fp48 := fp48 } }
  nextHas (step s) fun t =>
    after.all (Part.holds t) && t.reg .p == pc
      && [Reg.a, .b, .d, .l, .t, .x].all (fun r => after.any (Part.isReg r) || t.reg r == s.reg r)
      && (after.any Part.isSts || t.stsLow == s.stsLow)

theorem test_v1_lda_negative_displacement :
    vector 0o044200 [.mem 0o600 0o1717] [.reg .a 0o1717] 0o1001 = true := by decide

theorem test_v3_lda_wraps :
    vector 0o046001 [.reg .x 0o177777, .mem 0 0o4444] [.reg .a 0o4444] 0o1001 = true := by decide

theorem test_v4_jmp_indirect : vector 0o125400 [.reg .b 0o2000, .mem 0o2000 0o3456] [] 0o3456 = true := by decide

theorem test_v5_ldx_uses_old_x :
    vector 0o056003 [.reg .x 0o2000, .mem 0o2003 0o77] [.reg .x 0o77] 0o1001 = true := by decide

theorem test_v10_ldd_words :
    vector 0o024010 [.mem 0o1010 1, .mem 0o1011 2] [.reg .a 1, .reg .d 2] 0o1001 = true := by decide

theorem test_v11_std_words :
    vector 0o020010 [.reg .a 0o11, .reg .d 0o22] [.mem 0o1010 0o11, .mem 0o1011 0o22] 0o1001 = true := by decide

theorem test_v12_ldf_keeps_t :
    vector 0o034010 [.reg .t 7, .mem 0o1010 0o40100, .mem 0o1012 5] [.reg .a 0o40100, .reg .d 0, .reg .t 7] 0o1001
      = true := by decide

theorem test_v13_ldf_three_words :
    vector 0o034010 [.mem 0o1010 0o40001, .mem 0o1011 0o100000] [.reg .a 0o100000, .reg .d 0, .reg .t 0o40001]
      0o1001 (fp48 := true) = true := by decide

theorem test_v14_stf_three_words :
    vector 0o030010 [.reg .t 1, .reg .a 2, .reg .d 3] [.mem 0o1010 1, .mem 0o1011 2, .mem 0o1012 3]
      0o1001 (fp48 := true) = true := by decide

theorem test_v15_stz_stores_zero : vector 0o000010 [.mem 0o1010 7] [.mem 0o1010 0] 0o1001 = true := by decide

theorem test_v17_min_skips : vector 0o040010 [.mem 0o1010 0o177777] [.mem 0o1010 0] 0o1002 = true := by decide

theorem test_v18_min_counts : vector 0o040010 [.mem 0o1010 5] [.mem 0o1010 6] 0o1001 = true := by decide

theorem test_v20_add_overflow :
    vector 0o060010 [.reg .a 0o77777, .mem 0o1010 1, .sts 0] [.reg .a 0o100000, .sts 0o60] 0o1001 = true := by decide

theorem test_v23_add_keeps_o :
    vector 0o060010 [.reg .a 1, .mem 0o1010 1, .sts 0o60] [.reg .a 2, .sts 0o40] 0o1001 = true := by decide

theorem test_v24_sub_borrow :
    vector 0o064010 [.reg .a 0, .mem 0o1010 1, .sts 0] [.reg .a 0o177777, .sts 0] 0o1001 = true := by decide

theorem test_v26_sub_overflow :
    vector 0o064010 [.reg .a 0o100000, .mem 0o1010 1, .sts 0] [.reg .a 0o77777, .sts 0o160] 0o1001 = true := by decide

theorem test_v28_mpy_overflow :
    vector 0o120010 [.reg .a 0o300, .mem 0o1010 0o300, .sts 0] [.reg .a 0o110000, .sts 0o60] 0o1001 = true
      := by decide

theorem test_v29_mpy_negative :
    vector 0o120010 [.reg .a 0o177776, .mem 0o1010 3, .sts 0] [.reg .a 0o177772, .sts 0] 0o1001 = true := by decide

theorem test_v32_and_bits :
    vector 0o070010 [.reg .a 0o170360, .mem 0o1010 0o123456, .sts 0] [.reg .a 0o120040, .sts 0] 0o1001 = true
      := by decide

theorem test_v33_ora_bits :
    vector 0o074010 [.reg .a 0o170360, .mem 0o1010 0o123456, .sts 0] [.reg .a 0o173776, .sts 0] 0o1001 = true
      := by decide

theorem test_v40_rand_bits :
    vector 0o144447 [.reg .l 0o170360, .reg .x 0o123456] [.reg .x 0o120040] 0o1001 = true := by decide

theorem test_v41_radd_sum : vector 0o146057 [.reg .a 5, .reg .x 7] [.reg .x 0o14] 0o1001 = true := by decide

theorem test_v42_radd_negates : vector 0o146773 [.reg .x 5] [.reg .b 0o177773] 0o1001 = true := by decide

theorem test_v43_rsub_no_borrow :
    vector 0o146663 [.reg .t 3, .reg .b 0o12] [.reg .b 7, .sts 0o100] 0o1001 = true := by decide

theorem test_v44_rsub_borrow :
    vector 0o146663 [.reg .t 0o12, .reg .b 3] [.reg .b 0o177771, .sts 0] 0o1001 = true := by decide

theorem test_v45_rinc_overflow :
    vector 0o146405 [.reg .a 0o77777] [.reg .a 0o100000, .sts 0o60] 0o1001 = true := by decide

theorem test_v46_rinc_carry : vector 0o146405 [.reg .a 0o177777] [.reg .a 0, .sts 0o100] 0o1001 = true := by decide

theorem test_v47_rdcr_borrow : vector 0o146203 [.reg .b 0] [.reg .b 0o177777, .sts 0] 0o1001 = true := by decide

theorem test_v48_rdcr_overflow :
    vector 0o146203 [.reg .b 0o100000] [.reg .b 0o77777, .sts 0o160] 0o1001 = true := by decide

theorem test_v49_exit_jumps : vector 0o146142 [.reg .l 0o2345, .sts 0o100] [.sts 0] 0o2345 = true := by decide

theorem test_v50_rclr_of_p_jumps : vector 0o146102 [] [] 0 = true := by decide

theorem test_v51_swap_exchanges :
    vector 0o144051 [.reg .a 0o111111, .reg .d 0o22222] [.reg .a 0o22222, .reg .d 0o111111] 0o1001 = true := by decide

theorem test_v52_swap_cld :
    vector 0o144157 [.reg .a 0o111111, .reg .x 0o22222] [.reg .a 0, .reg .x 0o111111] 0o1001 = true := by decide

theorem test_v54_rexo_bits :
    vector 0o145063 [.reg .t 0o125252, .reg .b 0o177777] [.reg .b 0o52525] 0o1001 = true := by decide

theorem test_v55_rora_bits :
    vector 0o145463 [.reg .t 0o17, .reg .b 0o170000] [.reg .b 0o170017] 0o1001 = true := by decide

theorem test_v59_copy_of_p : vector 0o146125 [] [.reg .a 0o1001] 0o1001 = true := by decide

theorem test_v61_rmpy_wide : vector 0o146751 [.reg .a 1] [.reg .d 0o177777] 0o1001 = true := by decide

theorem test_v64_rmpy_low_bits :
    vector 0o141257 [.reg .a 0o100000, .reg .x 0o100000] [.reg .a 0o40000, .reg .d 0] 0o1001 = true := by decide

theorem test_v65_rdiv_quotient :
    vector 0o141660 [.reg .d 0o26, .reg .t 4] [.reg .a 5, .reg .d 2] 0o1001 = true := by decide

theorem test_v66_rdiv_negative_dividend :
    vector 0o141660 [.reg .a 0o177777, .reg .d 0o177752, .reg .t 4] [.reg .a 0o177773, .reg .d 0o177776] 0o1001 = true
      := by decide

theorem test_v71_mix3_three_times : vector 0o143200 [.reg .a 5] [.reg .x 0o14] 0o1001 = true := by decide

theorem test_v72_mix3_of_zero : vector 0o143200 [.reg .a 0] [.reg .x 0o177775] 0o1001 = true := by decide

theorem test_v74_exr_stores :
    vector 0o140650 [.reg .a 0o14177, .reg .x 0o4321] [.mem 0o1177 0o4321] 0o1001 = true := by decide

theorem test_v75_exr_jumps : vector 0o140630 [.reg .b 0o134020] [.reg .l 0o1001] 0o1020 = true := by decide

theorem test_v80_fad_one_and_one :
    vector 0o100010 [.reg .a 0o40100, .reg .d 0, .mem 0o1010 0o40100, .mem 0o1011 0] [.reg .a 0o40200, .reg .d 0]
      0o1001 = true := by decide

theorem test_v81_fsb_three_and_one :
    vector 0o104010 [.reg .a 0o40240, .reg .d 0, .mem 0o1010 0o40100, .mem 0o1011 0] [.reg .a 0o40200, .reg .d 0]
      0o1001 = true := by decide

theorem test_v83_fmu_sign :
    vector 0o110010 [.reg .a 0o40240, .reg .d 0, .mem 0o1010 0o140100, .mem 0o1011 0] [.reg .a 0o140240, .reg .d 0]
      0o1001 = true := by decide

theorem test_v85_fdv_exact :
    vector 0o114010 [.reg .a 0o40240, .reg .d 0, .mem 0o1010 0o40100, .mem 0o1011 0] [.reg .a 0o40240, .reg .d 0]
      0o1001 = true := by decide

theorem test_v82_fsb_zero :
    vector 0o104010 [.reg .a 0o40100, .reg .d 0, .mem 0o1010 0o40100, .mem 0o1011 0] [.reg .a 0, .reg .d 0] 0o1001
      = true := by decide

theorem test_v92_nlz_minus_one :
    vector 0o151420 [.reg .a 0o177777, .reg .d 0o7777] [.reg .a 0o140100, .reg .d 0] 0o1001 = true := by decide

theorem test_v99_nlz_long_format :
    vector 0o151420 [.reg .a 1] [.reg .t 0o40001, .reg .a 0o100000, .reg .d 0] 0o1001 (fp48 := true) = true
      := by decide

theorem test_v101_dnz_three :
    vector 0o152360 [.reg .a 0o40240, .reg .d 0] [.reg .a 3, .reg .d 0] 0o1001 = true := by decide

theorem test_v102_dnz_truncates :
    vector 0o152360 [.reg .a 0o140220, .reg .d 0] [.reg .a 0o177776, .reg .d 0] 0o1001 = true := by decide

theorem test_v110_sht_left : vector 0o154001 [.reg .t 0o100001] [.reg .t 2, .sts 0o200] 0o1001 = true := by decide

theorem test_v125_sht_link :
    vector 0o157077 [.reg .t 1, .sts 0o200] [.reg .t 0o100000, .sts 0o200] 0o1001 = true := by decide

theorem test_v111_shd_rotate : vector 0o155277 [.reg .d 3] [.reg .d 0o100001, .sts 0o200] 0o1001 = true := by decide

theorem test_v112_sha_arithmetic_right :
    vector 0o154475 [.reg .a 0o177770] [.reg .a 0o177777, .sts 0] 0o1001 = true := by decide

theorem test_v120_sha_sixteen_places : vector 0o154420 [.reg .a 1] [.reg .a 0, .sts 0o200] 0o1001 = true := by decide

theorem test_v114_sad_left :
    vector 0o154601 [.reg .a 1, .reg .d 0o100000] [.reg .a 3, .reg .d 0, .sts 0] 0o1001 = true := by decide

theorem test_v127_sad_thirty_two_places :
    vector 0o154640 [.reg .a 0o100000] [.reg .a 0o177777, .reg .d 0o177777, .sts 0o200] 0o1001 = true := by decide

theorem test_v143_jap_taken : vector 0o130003 [] [] 0o203 (at_ := 0o200) = true := by decide

theorem test_v145_jan_taken : vector 0o130777 [.reg .a 0o100000] [] 0o177 (at_ := 0o200) = true := by decide

theorem test_v147_jaz_not_taken : vector 0o131005 [.reg .a 1] [] 0o201 (at_ := 0o200) = true := by decide

theorem test_v148_jaf_taken : vector 0o131405 [.reg .a 1] [] 0o205 (at_ := 0o200) = true := by decide

theorem test_v149_jpc_counts : vector 0o132375 [.reg .x 4] [.reg .x 5] 0o175 (at_ := 0o200) = true := by decide

theorem test_v150_jpc_overflows :
    vector 0o132375 [.reg .x 0o77777] [.reg .x 0o100000] 0o201 (at_ := 0o200) = true := by decide

theorem test_v153_jnc_counts : vector 0o132777 [.reg .x 0o177777] [.reg .x 0] 0o201 (at_ := 0o200) = true := by decide

theorem test_v154_jnc_overflows :
    vector 0o132777 [.reg .x 0o77777] [.reg .x 0o100000] 0o177 (at_ := 0o200) = true := by decide

theorem test_v155_jxz_taken : vector 0o133007 [] [] 0o207 (at_ := 0o200) = true := by decide

theorem test_v156_jxn_taken : vector 0o133600 [.reg .x 0o100000] [] 0 (at_ := 0o200) = true := by decide

theorem test_v161_skp_equal : vector 0o140041 [.reg .d 5, .reg .l 6] [] 0o1001 = true := by decide

theorem test_v162_skp_less : vector 0o142453 [.reg .a 1, .reg .b 2] [] 0o1001 = true := by decide

theorem test_v180_saa_sets : vector 0o170401 [] [.reg .a 1] 0o1001 = true := by decide

theorem test_v181_sat_sets : vector 0o171013 [.reg .t 0o177777] [.reg .t 0o13] 0o1001 = true := by decide

theorem test_v182_sab_sign_extends : vector 0o170352 [] [.reg .b 0o177752] 0o1001 = true := by decide

theorem test_v183_sax_sign_extends : vector 0o171773 [] [.reg .x 0o177773] 0o1001 = true := by decide

theorem test_v187_aaa_overflow :
    vector 0o172401 [.reg .a 0o77777] [.reg .a 0o100000, .sts 0o60] 0o1001 = true := by decide

theorem test_v191_aab_carry : vector 0o172377 [.reg .b 0o400] [.reg .b 0o377, .sts 0o100] 0o1001 = true := by decide

theorem test_v193_aat_overflow :
    vector 0o173177 [.reg .t 0o77701] [.reg .t 0o100100, .sts 0o60] 0o1001 = true := by decide

theorem test_v192_aax_wraps : vector 0o173401 [.reg .x 0o177777] [.reg .x 0, .sts 0o100] 0o1001 = true := by decide

theorem test_v200_bset_zro_o : vector 0o174050 [.sts 0o377] [.sts 0o337] 0o1001 = true := by decide

theorem test_v201_bset_one_a15 : vector 0o174375 [] [.reg .a 0o100000] 0o1001 = true := by decide

theorem test_v202_bset_bcm_x0 : vector 0o174407 [.reg .x 1] [.reg .x 0] 0o1001 = true := by decide

theorem test_v203_bset_bac_t2 : vector 0o174626 [.sts 4] [.reg .t 4] 0o1001 = true := by decide

theorem test_v205_bskp_zro_z : vector 0o175030 [] [] 0o1002 = true := by decide

theorem test_v206_bskp_one_c : vector 0o175260 [.sts 0o100] [] 0o1002 = true := by decide

theorem test_v207_bskp_bcm_a0 : vector 0o175405 [.reg .a 1] [] 0o1002 = true := by decide

theorem test_v208_bskp_bac_a0 : vector 0o175605 [.reg .a 1, .sts 4] [] 0o1002 = true := by decide

theorem test_v209_bstc_a1 : vector 0o176015 [] [.reg .a 2, .sts 4] 0o1001 = true := by decide

theorem test_v212_bsta_a3 : vector 0o176235 [.sts 4] [.reg .a 0o10, .sts 0] 0o1001 = true := by decide

theorem test_v214_bldc_c : vector 0o176220 [.sts 4] [.sts 0] 0o1001 = true := by decide

theorem test_v216_blda_c : vector 0o176660 [.sts 0o100] [.sts 0o104] 0o1001 = true := by decide

theorem test_v217_banc_a0 : vector 0o177005 [.sts 4] [.sts 4] 0o1001 = true := by decide

theorem test_v218_band_a0 : vector 0o177205 [.sts 4] [.sts 0] 0o1001 = true := by decide

theorem test_v219_borc_x6 : vector 0o177467 [.reg .x 0o100] [.sts 0] 0o1001 = true := by decide

theorem test_v220_bora_d15 : vector 0o177771 [.reg .d 0o100000] [.sts 4] 0o1001 = true := by decide

theorem test_v230_lbyt_even :
    vector 0o142200 [.reg .t 0o4600, .reg .x 4, .mem 0o4602 0o177400] [.reg .a 0o377] 0o1001 = true := by decide

theorem test_v231_lbyt_odd :
    vector 0o142200 [.reg .t 0o4600, .reg .x 5, .mem 0o4602 0o177400] [.reg .a 0] 0o1001 = true := by decide

theorem test_v233_sbyt_odd :
    vector 0o142600 [.reg .t 0o2000, .reg .x 1, .reg .a 0o377, .mem 0o2000 0o123456] [.mem 0o2000 0o123777] 0o1001
      = true := by decide

theorem test_v234_sbyt_even :
    vector 0o142600 [.reg .t 0o2000, .reg .x 0, .reg .a 0o177401, .mem 0o2000 0o123456] [.mem 0o2000 0o456] 0o1001
      = true := by decide

theorem test_v235_bfill_field :
    vector 0o140130 [.reg .x 0o3000, .reg .t 0o100003, .reg .a 0o52] [.mem 0o3000 0o52, .mem 0o3001 0o25052,
      .reg .x 0o3002, .reg .t 0] 0o1001 = true := by decide

theorem test_v236_movb_field :
    vector 0o140131 [.reg .a 0o2000, .reg .d 3, .reg .x 0o3000, .reg .t 0o100003, .mem 0o2000 0o40502,
      .mem 0o2001 0o41504] [.mem 0o3000 0o101, .mem 0o3001 0o41103, .reg .a 0o2001, .reg .d 0o100000, .reg .x 0o3002,
      .reg .t 3] 0o1001 = true := by decide

theorem test_v237_movbf_overlapping :
    vector 0o140132 [.reg .a 0o2000, .reg .d 4, .reg .x 0o2000, .reg .t 0o100004, .mem 0o2000 0o40502,
      .mem 0o2001 0o41504] [.mem 0o2000 0o40501, .mem 0o2001 0o40501, .mem 0o2002 0o40400, .reg .a 0o2002, .reg .d 0,
      .reg .x 0o2002, .reg .t 0o100004] 0o1001 = true := by decide

theorem test_v238_movew_three_words :
    vector 0o143100 [.reg .d 0o1100, .reg .t 0o2000, .reg .l 3, .mem 0o1100 1, .mem 0o1101 2, .mem 0o1102 3]
      [.mem 0o2000 1, .mem 0o2001 2, .mem 0o2002 3, .reg .d 0o1103, .reg .t 0o2003, .reg .l 0] 0o1001 = true
      := by decide

theorem test_v239_movew_too_many :
    vector 0o143100 [.reg .l 0o4001, .reg .d 4, .mem 4 4, .reg .t 5] [.mem 5 0] 0o1001 = true := by decide

theorem test_v240_versn_constants :
    vector 0o140133 [.reg .a 0o1400] [.reg .a 0, .reg .t 0, .reg .d 0] 0o1001 = true := by decide

theorem test_v250_addd_sum :
    vector 0o140120 [.reg .a 0o2000, .reg .d 4, .reg .x 0o2010, .reg .t 4, .mem 0o2000 0o11074, .mem 0o2010 0o42554]
      [.mem 0o2000 0o53634] 0o1002 = true := by decide

theorem test_v253_addd_unsigned :
    vector 0o140120 [.reg .a 0o2000, .reg .d 0o20004, .reg .x 0o2010, .reg .t 4, .mem 0o2000 0o11074,
      .mem 0o2010 0o42554] [.mem 0o2000 0o53637] 0o1002 = true := by decide

theorem test_v256_comd_less :
    vector 0o140122 [.reg .a 0o2000, .reg .d 4, .reg .x 0o2010, .reg .t 4, .mem 0o2000 0o11074, .mem 0o2010 0o42554]
      [.reg .a 0o177777, .mem 0o2000 0o11074] 0o1002 = true := by decide

theorem test_v257_comd_equal :
    vector 0o140122 [.reg .a 0o2000, .reg .d 4, .reg .x 0o2010, .reg .t 4, .mem 0o2000 0o42554, .mem 0o2010 0o42554]
      [.reg .a 0] 0o1002 = true := by decide

theorem test_v258_shde_right :
    vector 0o140126 [.reg .a 0o2000, .reg .d 4, .reg .x 0o2010, .reg .t 0o44, .mem 0o2000 0o11074, .mem 0o2010 0]
      [.mem 0o2010 0o454] 0o1002 = true := by decide

theorem test_v260_shde_loses :
    vector 0o140126 [.reg .a 0o2000, .reg .d 0o44, .reg .x 0o2010, .reg .t 4, .mem 0o2000 0o11074, .mem 0o2010 0]
      [.mem 0o2010 0] 0o1001 = true := by decide

theorem test_v270_entr_frame :
    vector 0o140135 [.reg .b 0o10200, .mem 0o10002 0o10300, .mem 0o10003 0o20000, .reg .l 0o1001, .mem 0o1101 0o300]
      [.reg .b 0o10500, .mem 0o10300 0o1002, .mem 0o10301 0o10200, .mem 0o10302 0o11000, .mem 0o10303 0o20000]
      0o1103 (at_ := 0o1100) = true := by decide

theorem test_v271_entr_overflow :
    vector 0o140135 [.reg .b 0o10200, .mem 0o10002 0o10300, .mem 0o10003 0o20000, .reg .l 0o1001, .mem 0o1101 0o70000]
      [.mem 0o10300 0] 0o1102 (at_ := 0o1100) = true := by decide

theorem test_v272_leave_returns :
    vector 0o140136 [.reg .b 0o10500, .mem 0o10300 0o1002, .mem 0o10301 0o10200, .mem 0o10302 0o11000,
      .mem 0o10303 0o20000] [.reg .b 0o10200] 0o1002 (at_ := 0o1103) = true := by decide

theorem test_v273_eleav_error :
    vector 0o140137 [.reg .b 0o10500, .mem 0o10300 0o1002, .mem 0o10301 0o10200, .mem 0o10302 0o11000,
      .mem 0o10303 0o20000, .reg .a 0o77] [.reg .b 0o10200, .mem 0o10300 0o1001, .mem 0o10005 0o77]
      0o1001 (at_ := 0o1103) = true := by decide

theorem test_v274_init_frame :
    vector 0o140134 [.mem 0o1001 0o100, .mem 0o1002 0o4000, .mem 0o1003 0o1000, .reg .l 0o500, .reg .b 0o7777]
      [.mem 0o4000 0o501, .mem 0o4001 0o7777, .mem 0o4002 0o4300, .mem 0o4003 0o5000, .reg .b 0o4200] 0o1007 = true
      := by decide

theorem test_v275_init_flag :
    vector 0o140134 [.mem 0o1001 0o100, .mem 0o1002 0o4000, .mem 0o1003 0o1000, .reg .l 0o500, .reg .b 0o7777,
      .mem 0o1004 1] [.mem 0o4000 0] 0o1006 = true := by decide

theorem test_v276_rdus_reads :
    vector 0o140127 [.reg .t 0o2000, .mem 0o2000 0o123] [.reg .a 0o123] 0o1001 = true := by decide

theorem test_v277_tset_sets :
    vector 0o140123 [.reg .t 0o2000] [.reg .a 0, .mem 0o2000 0o177777] 0o1001 = true := by decide

theorem test_v291_irr_status : vector 0o153600 [.sts 0o105] [.reg .a 0o105] 0o1001 = true := by decide

theorem test_v293_irw_jumps : vector 0o153402 [.reg .a 0o2000] [] 0o2000 = true := by decide

theorem test_v295_srb_own_level :
    vector 0o152402 [.reg .x 0o3000] [.mem 0o3000 0o1001, .mem 0o3001 0o3000] 0o1001 = true := by decide

theorem test_v297_lrb_own_level :
    vector 0o152600 [.reg .x 0o3000, .mem 0o3000 0o4000, .mem 0o3001 1, .mem 0o3002 2, .mem 0o3003 3, .mem 0o3004 4,
      .mem 0o3005 5, .mem 0o3006 0o177401, .mem 0o3007 7] [.reg .x 1, .reg .t 2, .reg .a 3, .reg .d 4, .reg .l 5,
      .reg .b 7, .sts 1] 0o1001 = true := by decide

theorem test_v298_mcl_carry : vector 0o150201 [.reg .a 0o100, .sts 0o144] [.sts 0o44] 0o1001 = true := by decide

theorem test_v300_trr_status : vector 0o150101 [.reg .a 0o177777] [.sts 0o377] 0o1001 = true := by decide

theorem test_v303_exam_bank :
    vector 0o150416 [.reg .a 1, .reg .d 0o20, .mem 0o200020 0o555] [.reg .t 0o555] 0o1001 = true := by decide

theorem test_v304_depo_bank :
    vector 0o150417 [.reg .a 0o177401, .reg .d 0o20, .reg .t 0o666] [.mem 0o200020 0o666] 0o1001 = true := by decide

theorem test_v305_ldatx_wraps :
    vector 0o143320 [.reg .t 2, .reg .x 0o177777, .mem 0o400001 0o77] [.reg .a 0o77] 0o1001 = true := by decide

/-! ### Examples S4, S5 and cases worked from the rules, paging off -/

theorem test_s4_jpl_indirect : vector 0o135403 [.reg .b 0o400, .mem 0o403 0o20000] [.reg .l 0o1001] 0o20000 = true := by
  decide

theorem test_s5_sta_indexed : vector 0o006002 [.reg .x 0o604, .reg .a 7] [.mem 0o606 7] 0o1001 = true := by decide

theorem test_stt_word : vector 0o010010 [.reg .t 7] [.mem 0o1010 7] 0o1001 = true := by decide

theorem test_stx_word : vector 0o014010 [.reg .x 7] [.mem 0o1010 7] 0o1001 = true := by decide

theorem test_ldt_word : vector 0o050010 [.mem 0o1010 7] [.reg .t 7] 0o1001 = true := by decide

/-- spec/47_decimal_stack.md R349: the letter "1B" packs to +12; D bits 4-0 are any value. -/
theorem test_pack_letter :
    nextHas (step (start [.reg .a 0o2000, .reg .d 2, .mem 0o2000 0o30502, .reg .x 0o2010, .reg .t 4, .mem 0o1000 0o140124]))
      (fun t => Memory.word t.mem 0o2010 == 0o454 && t.reg .p == 0o1002) = true := by decide

/-- R350: the reverse. -/
theorem test_upack_letter :
    nextHas (step (start [.reg .a 0o2010, .reg .d 4, .mem 0o2010 0o454, .reg .x 0o2000, .reg .t 2, .mem 0o1000 0o140125]))
      (fun t => Memory.word t.mem 0o2000 == 0o30502 && t.reg .p == 0o1002) = true := by decide

theorem test_lasb : vector (encode (.lasb 2)) [.reg .b 0o2000, .mem 0o2002 7] [.reg .a 7] 0o1001 = true := by decide

theorem test_sasb : vector (encode (.sasb 2)) [.reg .b 0o2000, .reg .a 7] [.mem 0o2002 7] 0o1001 = true := by decide

theorem test_lacb : vector (encode (.lacb 2)) [.reg .b 0o2000, .mem 0o2002 7] [.reg .a 7] 0o1001 = true := by decide

theorem test_sacb : vector (encode (.sacb 2)) [.reg .b 0o2000, .reg .a 7] [.mem 0o2002 7] 0o1001 = true := by decide

theorem test_lxsb : vector (encode (.lxsb 2)) [.reg .b 0o2000, .mem 0o2002 7] [.reg .x 7] 0o1001 = true := by decide

theorem test_lxcb : vector (encode (.lxcb 2)) [.reg .b 0o2000, .mem 0o2002 7] [.reg .x 7] 0o1001 = true := by decide

theorem test_szsb : vector (encode (.szsb 2)) [.reg .b 0o2000, .mem 0o2002 7] [.mem 0o2002 0] 0o1001 = true := by decide

theorem test_szcb : vector (encode (.szcb 2)) [.reg .b 0o2000, .mem 0o2002 7] [.mem 0o2002 0] 0o1001 = true := by decide

theorem test_ldxtx :
    vector (encode (.ldxtx 1)) [.reg .t 2, .reg .x 0o2000, .mem 0o402001 7] [.reg .x 7] 0o1001 = true := by decide

theorem test_lddtx :
    vector (encode (.lddtx 1)) [.reg .t 2, .reg .x 0o2000, .mem 0o402001 7, .mem 0o402002 9] [.reg .a 7, .reg .d 9]
      0o1001 = true := by decide

theorem test_ldbtx :
    vector (encode (.ldbtx 1)) [.reg .t 2, .reg .x 0o2000, .mem 0o402001 5] [.reg .b 0o177012] 0o1001 = true := by decide

theorem test_statx :
    vector (encode (.statx 1)) [.reg .t 2, .reg .x 0o2000, .reg .a 7] [.mem 0o402001 7] 0o1001 = true := by decide

theorem test_stztx :
    vector (encode (.stztx 1)) [.reg .t 2, .reg .x 0o2000, .mem 0o402001 7] [.mem 0o402001 0] 0o1001 = true := by decide

theorem test_stdtx :
    vector (encode (.stdtx 1)) [.reg .t 2, .reg .x 0o2000, .reg .a 7, .reg .d 9] [.mem 0o402001 7, .mem 0o402002 9]
      0o1001 = true := by decide

theorem test_lbit : vector (encode .lbit) [.reg .x 0o2000, .reg .a 0o21, .mem 0o2001 2] [.sts 4] 0o1001 = true := by decide

theorem test_sbit :
    vector (encode .sbit) [.reg .x 0o2000, .reg .a 0o21, .mem 0o2001 4, .sts 4] [.mem 0o2001 6] 0o1001 = true := by decide

theorem test_lbitp :
    vector (encode .lbitp) [.reg .t 2, .reg .x 0o2000, .reg .a 0o21, .mem 0o402001 2] [.sts 4] 0o1001 = true := by decide

theorem test_sbitp :
    vector (encode .sbitp) [.reg .t 2, .reg .x 0o2000, .reg .a 0o21, .mem 0o402001 6] [.mem 0o402001 4] 0o1001 = true := by
  decide

theorem test_lbytp :
    vector (encode .lbytp) [.reg .d 2, .reg .t 0o2000, .reg .x 3, .mem 0o402001 0o123456] [.reg .a 0o56] 0o1001 = true := by
  decide

theorem test_sbytp :
    vector (encode .sbytp) [.reg .d 2, .reg .t 0o2000, .reg .x 3, .reg .a 0o401, .mem 0o402001 0o123456]
      [.mem 0o402001 0o123401] 0o1001 = true := by decide

theorem test_tsetp :
    vector (encode .tsetp) [.reg .t 2, .reg .x 0o2000, .mem 0o402000 7] [.reg .a 7, .mem 0o402000 0o177777] 0o1001
      = true := by decide

theorem test_rdusp : vector (encode .rdusp) [.reg .t 2, .reg .x 0o2000, .mem 0o402000 7] [.reg .a 7] 0o1001 = true := by
  decide

/-- One element of spec/49_sintran3.md R421: bit 11 cleared, the entry of index 5 at 0o177012. -/
theorem test_setpt_element :
    vector (encode .setpt) [.reg .x 0o2000, .mem 0o2001 5, .mem 0o2002 0o164000, .mem 0o2003 0o77]
      [.reg .a 0o160000, .reg .d 0o77, .reg .b 0o177012, .reg .x 0, .ptab 0o3012 0o160000, .ptab 0o3013 0o77] 0o1001
      = true := by decide

/-- R422: a used entry is saved at the displacement of the installation and cleared. -/
theorem test_clept_element :
    vector (encode .clept) [.reg .x 0o2000, .mem 0o2001 5, .ptab 0o3012 0o164000]
      [.reg .a 0o164000, .reg .b 0o177012, .reg .x 0, .ptab 0o3012 0, .mem 0o2004 0o164000] 0o1001 = true := by decide

/-- R426: A = 0 saves and clears. -/
theorem test_clpt_element :
    vector (encode .clpt) [.reg .x 0o2000, .mem 0o2003 5, .ptab 0o12 0o164000]
      [.reg .b 0o174012, .reg .x 0, .ptab 0o12 0, .mem 0o2002 0o164000] 0o1001 = true := by decide

/-- R428: the entry of logical page 5; word 1 is X / 4. -/
theorem test_enpt_element :
    vector (encode .enpt) [.reg .x 0o2000, .mem 0o2002 0o164000, .mem 0o2003 5]
      [.reg .a 0o160000, .reg .b 0o174012, .reg .x 0, .ptab 0o12 0o160000, .ptab 0o13 0o400] 0o1001 = true := by decide

/-- R429: WPM is cleared too. -/
theorem test_rept_element :
    vector (encode .rept) [.reg .x 0o2000, .mem 0o2002 0o164000, .mem 0o2003 5]
      [.reg .a 0o060000, .reg .b 0o174012, .reg .x 0, .ptab 0o12 0o060000, .ptab 0o13 0o400] 0o1001 = true := by decide

/-- R430. -/
theorem test_inspl :
    vector (encode .inspl) [.reg .x 0o2000, .reg .b 0o3000, .reg .t 0o77, .mem 0o3007 0o2400, .mem 0o2401 0o1234]
      [.mem 0o3007 0o2000, .mem 0o2000 0o2400, .mem 0o2001 0o1234, .mem 0o2003 0o77, .mem 0o2401 0o2000] 0o1001
      = true := by decide

/-- R431. -/
theorem test_rempl :
    vector (encode .rempl) [.reg .x 0o2000, .mem 0o2000 0o2400, .mem 0o2001 0o3000, .mem 0o3000 0o2000]
      [.mem 0o3000 0o2400, .mem 0o2000 0, .mem 0o2001 0, .mem 0o2401 0o3000] 0o1001 = true := by decide

/-- R424: the entry of the first bit. -/
theorem test_cnrek :
    vector (encode .cnrek) [.reg .a 0o2000, .reg .x 0o3000, .mem 0o2002 0o100, .mem 0o3000 1, .ptab 0o200 7, .ptab 0o202 9]
      [.ptab 0o200 0, .ptab 0o202 9] 0o1001 = true := by decide

/-- R427. -/
theorem test_clnreent :
    vector (encode .clnreent) [.reg .a 0o2000, .reg .x 0o3000, .mem 0o2002 0o100, .mem 0o3001 2, .ptab 0o242 7]
      [.ptab 0o242 0] 0o1001 = true := by decide

/-- R425. -/
theorem test_chreentpages_refused :
    exec .chreentpages State.reset = .refused .chreentpagesNotDescribed := by rfl

/-! ### Levels, interrupts and system control: V290 to V310 -/

theorem test_v290_irr :
    nextHas (exec (.irr 14 (.reg .p)) (State.reset.setLevel 14 { LevelRegs.zero with p := 0o4000 }))
      (fun t => t.reg .a == 0o4000) = true := by decide

theorem test_v292_irw :
    nextHas (exec (.irw 8 (.reg .b)) (start [.reg .a 0o1234]))
      (fun t => (t.level 8).b == 0o1234 && t.reg .b == 0) = true := by decide

theorem test_v294_srb :
    nextHas
      (exec (.srb 8) ((start [.reg .x 0o3000]).setLevel 8
        { p := 1, x := 2, t := 3, a := 4, d := 5, l := 6, sts := 0o107, b := 8 }))
      (fun t => (List.range 8).map (fun i => Memory.word t.mem (0o3000 + i)) == [1, 2, 3, 4, 5, 6, 0o107, 8]) = true := by
  decide

theorem test_v296_lrb :
    nextHas
      (exec (.lrb 14)
        (start [.reg .x 0o3000, .mem 0o3000 0o4000, .mem 0o3001 1, .mem 0o3002 2, .mem 0o3003 3, .mem 0o3004 4,
          .mem 0o3005 5, .mem 0o3006 0o177401, .mem 0o3007 7]))
      (fun t => t.level 14 == { p := 0o4000, x := 1, t := 2, a := 3, d := 4, l := 5, sts := 1, b := 7 }) = true := by
  decide

theorem test_v299_mst :
    nextHas (exec (.mst 0o7) { start [.reg .a 0o140] with pie := 2 }) (fun t => t.pie == 0o142) = true := by decide

theorem test_mcl_pid :
    nextHas (exec (.mcl 0o6) { start [.reg .a 0o140] with pid := 0o142 }) (fun t => t.pid == 2) = true := by decide

theorem test_trr_pcr :
    nextHas (exec (.trr 0o3) (start [.reg .a 0o14373]))
      (fun t => t.pcr.get 15 == { pt := 3, apt := 1, ring := 3 } && t.pcr.get 14 == { pt := 0, apt := 0, ring := 0 })
      = true := by decide

theorem test_v301_tra_pvl :
    nextHas (exec (.tra 0o4) { State.reset with pvl := 3 }) (fun t => t.reg .a == 0o153632) = true := by decide

theorem test_v302_tra_iic :
    nextHas (exec (.tra 0o5) { State.reset with iic := 3 }) (fun t => t.reg .a == 3 && t.iic == 0) = true := by decide

theorem test_v306_wait_stops :
    nextHas (exec (.wait 0) (start [])) (fun t => t.run == .stopped && t.reg .p == 0o1001) = true := by decide

theorem test_v307_wait_level_0 :
    nextHas (exec (.wait 0) { start [] with ioni := true }) (fun t => t.run == .running && t.reg .p == 0o1001)
      = true := by decide

theorem test_v308_iof : nextHas (exec .iof { start [] with ioni := true }) (fun t => !t.ioni) = true := by decide

theorem test_v308_ion_selects :
    nextHas (exec .ion { start [] with pid := 6, pie := 6 }) (fun t => t.ioni && t.pil == 2 && t.pvl == 0) = true := by
  decide

theorem test_pion : nextHas (exec .pion (start [])) (fun t => t.ioni && t.poni) = true := by decide

theorem test_piof :
    nextHas (exec .piof { start [] with ioni := true, poni := true, pcr := Vector.replicate 16 ⟨0, 0, 2⟩ })
      (fun t => !t.ioni && !t.poni) = true := by decide

theorem test_pon : nextHas (exec .pon (start [])) (fun t => t.poni && !t.ioni) = true := by decide

theorem test_pof :
    nextHas (exec .pof { start [] with poni := true, pcr := Vector.replicate 16 ⟨0, 0, 2⟩ }) (fun t => !t.poni) = true := by
  decide

theorem test_sex : nextHas (exec .sex (start [])) (fun t => t.sexi) = true := by decide

theorem test_rex : nextHas (exec .rex { start [] with sexi := true }) (fun t => !t.sexi) = true := by decide

theorem test_opcom : nextHas (exec .opcom (start [])) (fun t => t.run == .opcom) = true := by decide

theorem test_wglob :
    nextHas (exec .wglob (start [.reg .t 0o401, .reg .a 7, .reg .d 3]))
      (fun t => t.stbnk == 1 && t.stsrt == 7 && t.cmbnk == 3) = true := by decide

theorem test_rglob :
    nextHas (exec .rglob { start [] with stbnk := 1, stsrt := 7, cmbnk := 3 })
      (fun t => t.reg .t == 1 && t.reg .a == 7 && t.reg .d == 3) = true := by decide

theorem test_ident_serves_nearest :
    nextHas (exec .identPl12 { start [] with req12 := [0o123, 5], pid := 0o10000 })
      (fun t => t.reg .a == 0o123 && t.req12 == [5] && t.pid == 0o10000) = true := by decide

theorem test_ident_clears_pid :
    nextHas (exec .identPl10 { start [] with req10 := [0o123], pid := 0o2000 })
      (fun t => t.reg .a == 0o123 && t.req10 == [] && t.pid == 0) = true := by decide

/-- Level 1 with internal interrupts enabled, the words given in memory. -/
def onLevel1 (before : List Part) : State :=
  before.foldl Part.put
    (({ State.reset with ioni := true, pil := 1, pid := 2, pie := 0o40002, iie := 0o3776 } : State).setReg .p 0o1000)

/-- MON 5 of program P8: T of level 14 is 5, the caller's P is the next address. -/
theorem test_mon_enters_14 :
    nextHas (step (onLevel1 [.mem 0o1000 0o153005]))
      (fun t => t.pil == 14 && t.iic == 1 && t.pid == 0o40002 && t.pvl == 1 && t.reg .t == 5 && (t.level 1).p == 0o1001)
      = true := by decide

/-- Level 1 in user mode: paging on, ring 0, page 0 allowed for everything and standing in physical page 5. -/
def inUserMode (w : Word) : State :=
  { onLevel1 [.mem 0o13000 w] with
    poni := true, sexi := true, ptab := Memory.setWord (Memory.setWord [] 0 0o160000) 1 5 }

/-- V309: a privileged instruction in user mode. -/
theorem test_v309_privileged :
    nextHas (step (inUserMode 0o150401))
      (fun t => t.ioni && t.iic == 6 && t.pid == 0o40002 && (t.level 1).p == 0o1000 && t.pvl == 1 && t.pil == 14)
      = true := by decide

/-- V310: an illegal instruction. -/
theorem test_v310_illegal :
    nextHas (step (inUserMode 0o160000))
      (fun t => t.iic == 4 && t.pid == 0o40002 && (t.level 1).p == 0o1000 && t.pvl == 1 && t.pil == 14) = true := by
  decide

/-- A read of a page that is not in memory: code 3, PGS (spec/60_exceptions.md R478). -/
theorem test_page_fault :
    nextHas (step ((inUserMode 0o046000).setReg .x 0o2000))
      (fun t => t.iic == 3 && t.pil == 14 && t.pgs == { ff := false, pm := false, pt := 0, vpn := 1 }
        && Memory.word t.ptab 0 == 0o164000) = true := by decide

/-- A parity error of a read, LDA at 0o1001 (spec/60_exceptions.md R483, R492, spec/10_state.md R43): code 0o10, A and P of
the level as they were, PES with FAT and the error code, PEA the address. -/
theorem test_parity_error :
    nextHas (step ((onLevel1 [.mem 0o1000 0o044001]).memoryFails { addr := 0o1001, kind := .read, fatal := true, code := 5 }))
      (fun t => t.iic == 8 && t.pil == 14 && (t.level 1).p == 0o1000 && (t.level 1).a == 0 && t.pes == 0o22400
        && t.pea == 0o1001) = true := by decide

/-- The same write error with its IIE bit clear: STA is dropped and the program goes on (R476). -/
theorem test_parity_write_dropped :
    nextHas (step ((start [.reg .a 7, .mem 0o1000 0o004001]).memoryFails
        { addr := 0o1001, kind := .write, fatal := false, code := 0 }))
      (fun t => t.reg .p == 0o1001 && Memory.word t.mem 0o1001 == 0) = true := by decide

/-- A fault at the link of an unused element of CLEPT leaves A and B as they were (R422, R492). -/
theorem test_clept_fault :
    nextHas (step ((onLevel1 [.mem 0o1000 0o140301, .reg .x 0o2000, .mem 0o2001 5, .reg .a 1, .reg .b 2]).memoryFails
        { addr := 0o2000, kind := .read, fatal := false, code := 0 }))
      (fun t => t.iic == 8 && (t.level 1).a == 1 && (t.level 1).b == 2) = true := by decide

/-- The poll of ENPT after the last element leaves P at the ENPT, that of SETPT comes before an element (R428, R421). -/
theorem test_poll_after_last :
    nextHas (step { start [.mem 0o1000 0o140506, .reg .x 0o2000] with pollAfter := 1 })
        (fun t => t.reg .x == 0 && t.reg .p == 0o1000)
      && nextHas (step { start [.mem 0o1000 0o140300, .reg .x 0o2000] with pollAfter := 1 })
        (fun t => t.reg .x == 0 && t.reg .p == 0o1001) = true := by decide

/-- The table of a byte operand: APT with PTM = 1, else PT, whatever bit 14 of its descriptor (spec/20_memory.md R93, D30). -/
theorem test_byte_table :
    (byteDest (start [.reg .t 0o40000])).tbl = .pt ∧ (byteDest (start [.sts 1])).tbl = .apt
      ∧ (byteSource (start [.reg .d 0o40000, .sts 1])).tbl = .apt := ⟨rfl, rfl, rfl⟩

/-- The first cause that the listing of INSPL reaches is reported: the old head's back link at 0o2401, not X's at 0o2001
(spec/49_sintran3.md R430, spec/60_exceptions.md R489). -/
theorem test_inspl_first_cause :
    nextHas (step (((onLevel1 [.mem 0o1000 0o140502, .reg .x 0o2000, .mem 7 0o2400]).memoryFails
        { addr := 0o2001, kind := .write, fatal := false, code := 0 }).memoryFails
        { addr := 0o2401, kind := .read, fatal := false, code := 0 }))
      (fun t => t.iic == 8 && t.pea == 0o2401 && Memory.word t.mem 7 == 0o2400) = true := by decide

/-- The same for REMPL: the successor's back link at 0o2401, not X's link at 0o2000 (R431). -/
theorem test_rempl_first_cause :
    nextHas (step (((onLevel1 [.mem 0o1000 0o140503, .reg .x 0o2000, .mem 0o2000 0o2400, .mem 0o2001 0o3000]).memoryFails
        { addr := 0o2000, kind := .write, fatal := false, code := 0 }).memoryFails
        { addr := 0o2401, kind := .write, fatal := false, code := 0 }))
      (fun t => t.iic == 8 && t.pea == 0o2401 && Memory.word t.mem 0o2000 == 0o2400) = true := by decide

/-- The same for CNREK: the entry of the first bitmap word comes before the second bitmap word (R427). -/
theorem test_cnrek_first_cause :
    nextHas (step ({ (((onLevel1 [.mem 0o1000 0o140504, .reg .a 0o2000, .reg .x 0o3000, .mem 0o2002 0o100, .mem 0o3000 1]).memoryFails
        { addr := 0o3001, kind := .read, fatal := false, code := 0 }).memoryFails
        { addr := 0o174200, kind := .write, fatal := false, code := 0 }) with
        cfg := { resetConfig with ptMode := .four } }))
      (fun t => t.iic == 8 && t.pea == 0o174200) = true := by decide

/-- BFILL meets no exception of a read (spec/46_byte_block_version.md R324). -/
theorem test_bfill_reads_without_exception :
    nextHas (step ((onLevel1 [.mem 0o1000 0o140130, .reg .a 0o101, .reg .x 0o2000, .reg .t 1, .mem 0o2000 7]).memoryFails
        { addr := 0o2000, kind := .read, fatal := false, code := 0 }))
      (fun t => t.pil == 1 && Memory.word t.mem 0o2000 == 0o40407) = true := by decide

/-- A page in normal mode has nine bits (spec/20_memory.md R101 c). -/
theorem test_normal_mode_page :
    limitPage false (.allowed 0o37777 true false) = .allowed 0o777 true false
      ∧ limitPage true (.allowed 0o37777 true false) = .allowed 0o37777 true false := by decide

/-- withFetchWord places the instruction that the next step runs. -/
theorem test_with_fetch_word :
    nextHas (step (State.reset.withFetchWord 16 0o170401)) (fun t => t.reg .a == 1) = true := by decide

/-! ### States that meet the hypotheses of the obligations -/

/-- The reset configuration has memory everywhere. -/
theorem plain_of_reset {s : State} (h : s.poni = false) (c : s.cfg = resetConfig) (b : s.badWords = [] := by rfl) :
    s.plain := by
  refine ⟨h, fun pa => ?_, b⟩
  have := pa.isLt
  rw [c]
  simp only [Config.memExists, resetConfig, List.any_cons, List.any_nil, Bool.or_false, Bool.and_eq_true,
    decide_eq_true_eq]
  omega

theorem witness_decodeOfEncode : (Instr.copy (some .a) (some .d)).wellFormed = true := by decide

theorem witness_encodeOfDecode : decodeWord 0o177771 = .ok (.bora 15 (.reg .d)) := by decide

theorem witness_stepKeepsInv : State.reset.Inv ∧ ∃ t, step State.reset = .next t :=
  ⟨⟨⟨rfl, rfl⟩, nofun, rfl⟩, _, rfl⟩

theorem witness_stepRunsDecoded :
    (∃ u, fetchWord State.reset.selectLevel.pc State.reset.selectLevel = .ok 0 u) ∧ State.reset.run = .running ∧
      decodeWord 0 = .ok (.stz { x := false, i := false, b := false, disp := 0 }) ∧
      (∃ u, fetchWord (start [.mem 0o1000 0o160000]).selectLevel.pc (start [.mem 0o1000 0o160000]).selectLevel
        = .ok 0o160000 u) ∧
      decodeWord 0o160000 = .error (.undefinedWord 0o160000) :=
  ⟨⟨_, rfl⟩, rfl, by decide, ⟨_, rfl⟩, by decide⟩

/-- A fetch outside memory, and the two other run states. -/
theorem witness_stepStops :
    (∃ o, fetchWord 0o1000
      ({ start [] with cfg := { resetConfig with memMap := [] }, iie := 0o1000 } : State).selectLevel = .stop o) ∧
      ({ start [] with run := .stopped } : State).run = .stopped ∧ ({ start [] with run := .opcom } : State).run = .opcom :=
  ⟨⟨_, rfl⟩, rfl, rfl⟩

/-- Off; on with the present level requesting; on with a higher one; on with none. -/
theorem witness_levelSelection :
    State.reset.ioni = false ∧ (onLevel1 []).ioni = true ∧ ((onLevel1 []).pid &&& (onLevel1 []).pie).getLsbD 1 = true ∧
      (onLevel1 []).selectLevel.pil = (onLevel1 []).pil ∧
      ({ onLevel1 [] with pid := 0o40002 } : State).selectLevel.pil ≠ 1 ∧
      ({ onLevel1 [] with pid := 0 } : State).pid &&& (onLevel1 []).pie = 0 := by decide

/-- Enabled and deliverable on level 1; not enabled at reset; enabled and not deliverable on level 14. -/
theorem witness_internalInterrupts :
    (onLevel1 []).settled ∧ (onLevel1 []).iie.getLsbD 1 = true ∧ (onLevel1 []).iie.getLsbD 10 = true ∧
      (onLevel1 []).ioni = true ∧ (onLevel1 []).pie.getLsbD 14 = true ∧ (onLevel1 []).pil < 14 ∧
      State.reset.settled ∧ State.reset.iie.getLsbD 1 = false ∧
      ({ onLevel1 [] with pil := 14, pid := 0o40000 } : State).settled ∧
      ¬({ onLevel1 [] with pil := 14, pid := 0o40000 } : State).pil < 14 :=
  ⟨fun _ => by decide, by decide, by decide, rfl, by decide, by decide, nofun, by decide, fun _ => by decide, by decide⟩

theorem witness_privilegedInUserMode :
    isPrivileged .iof = true ∧ (inUserMode 0o150401).poni = true ∧ (inUserMode 0o150401).curPcr.ring < 2 := by decide

/-- With an instruction that executes and with one that is privileged. -/
theorem witness_userModeIsolation :
    ∀ w ∈ [0o170401#16, 0o150401], (inUserMode w).Inv ∧ (inUserMode w).userMode = true ∧
      ∃ t, step (inUserMode w) = .next t := by
  intro w hw
  fin_cases hw <;> exact ⟨⟨⟨by decide, by decide⟩, fun _ => by decide, rfl⟩, by decide, _, rfl⟩

/-- All eight modes at reset. -/
theorem witness_effectiveAddress (x i b : Bool) :
    ∃ p u, effAddr { x := x, i := i, b := b, disp := 0o200 } State.reset = .ok p u := by
  cases x <;> cases i <;> cases b <;> exact ⟨_, _, rfl⟩

/-- The first word of the page tables, the last word of memory before them, and no memory with the interrupt enabled
and not. -/
theorem witness_pagingOff :
    State.reset.poni = false ∧ (∃ u, resolve .read .pt 0o174000 State.reset = .ok (.ptab 0) u) ∧
      (∃ u, resolve .read .pt 0o173777 State.reset = .ok (.mem 0o173777) u) ∧
      (∃ u, resolve .read .pt 0 { State.reset with cfg := { resetConfig with memMap := [] } } = .ok .absent u) ∧
      (∃ o, resolve .read .pt 0 { State.reset with cfg := { resetConfig with memMap := [] }, iie := 0o1000 } = .stop o) ∧
      (let w : BadWord := { addr := 0, kind := .read, fatal := false, code := 0 }
       (∃ u, resolve .read .pt 0 (State.reset.memoryFails w) = .ok .absent u) ∧
       (∃ u, resolve .write .pt 0 (State.reset.memoryFails w) = .ok (.mem 0) u) ∧
       (∃ o, resolve .read .pt 0 { State.reset.memoryFails w with iie := 0o400 } = .stop o)) ∧
      State.reset.peLocked = false ∧ ({ State.reset with peLocked := true } : State).peLocked = true :=
  ⟨rfl, ⟨_, rfl⟩, ⟨_, rfl⟩, ⟨_, rfl⟩, ⟨_, rfl⟩, ⟨⟨_, rfl⟩, ⟨_, rfl⟩, ⟨_, rfl⟩⟩, rfl, rfl⟩

/-- Allowed, no permit, a permit that is not the one needed, a ring below; the same in normal mode; the contract of R101 for
rules that are not stated, with an entry that another table shares. -/
theorem witness_referenceTranslation (extended : Bool) :
    let s := { inUserMode 0 with sexi := extended }
    s.poni = true ∧ s.cfg.pageRules = .reference ∧ ¬(s.curPcr.ring = 3 ∧ 0o174000 ≤ (0 : Word).toNat) ∧
      (∃ g u, resolve .write .pt 0 s = .ok g u) ∧ (∃ o, resolve .write .pt 0o2000 s = .stop o) ∧
      (∃ o, resolve .write .pt 0 { s with ptab := Memory.setWord [] 0 0o060000 } = .stop o) ∧
      (∃ o, resolve .write .pt 0 { s with ptab := Memory.setWord [] 0 0o161000 } = .stop o) ∧
      (∃ pa v, Machine.translate .write .pt 0 s = .ok pa v) ∧ (s.tableNumber .apt = s.tableNumber .pt) ∧
      ({ resetConfig with pageRules := .unstated } : Config).pageRules = .unstated := by
  cases extended <;>
    exact ⟨by decide, by decide, by decide, ⟨_, _, rfl⟩, ⟨_, rfl⟩, ⟨_, rfl⟩, ⟨_, rfl⟩, ⟨_, _, rfl⟩, by decide, rfl⟩

theorem witness_readAfterWrite :
    State.reset.memoryWf ∧ (Target.mem 0xFFFFFF) ≠ .absent ∧ (Target.ptab 0x7FF) ≠ .mem 0xFFFFFF :=
  ⟨⟨rfl, rfl⟩, by decide, by decide⟩

/-- The operand 7 at 0o1010, and with memory missing a stop. -/
def atTen : MemOperand := { x := false, i := false, b := false, disp := 8 }

/-- A machine without memory whose memory errors are enabled. -/
def noMemory : State := { start [] with cfg := { resetConfig with memMap := [] }, iie := 0o1000 }

theorem witness_loadRegisters :
    (start [.mem 0o1010 7]).memoryWf ∧ (start [.mem 0o1010 7]).reads atTen 7 ∧ noMemory.memoryWf ∧
      ∃ o, readOperand atTen noMemory = .stop o :=
  ⟨⟨by decide, by decide⟩, ⟨_, rfl⟩, ⟨by decide, by decide⟩, _, rfl⟩

/-- Both floating formats; the second word at the end of the address space. -/
theorem witness_doubleWords (fp48 : Bool) :
    let s : State := { start [.mem 0o1010 7] with cfg := { resetConfig with fp48 := fp48 } }
    s.memoryWf ∧ (∃ p u, effAddr atTen s = .ok p u) ∧ (∃ v x, readTwo .pt 0o1010 s = .ok v x) ∧
      (∃ v x, readThree .pt 0o1010 s = .ok v x) ∧ (∃ g x, resolve2 .write .pt 0o177777 0 s = .ok g x) ∧
      (∃ g x, resolve .write .pt 0o1012 s = .ok g x) :=
  ⟨⟨by cases fp48 <;> decide, by cases fp48 <;> decide⟩, ⟨_, _, rfl⟩, ⟨_, _, rfl⟩, ⟨_, _, rfl⟩, ⟨_, _, rfl⟩, _, _, rfl⟩

/-- A store; a stop in the address; a stop in the store. -/
theorem witness_storeRegisters :
    (start []).memoryWf ∧ (start []).writes atTen (.mem 0o1010) ∧
      (∃ o, effAddr { atTen with i := true } noMemory = .stop o) ∧
      (∃ q u o, effAddr atTen noMemory = .ok q u ∧ resolve .write q.tbl q.addr u = .stop o) :=
  ⟨⟨by decide, by decide⟩, ⟨_, _, _, rfl, rfl⟩, ⟨_, rfl⟩, _, _, _, rfl, rfl⟩

/-- The word 0o177777, with which MIN skips, and 7. -/
theorem witness_readModifyWrite :
    ∀ v ∈ [0o177777#16, 7],
      (start [.mem 0o1010 v, .reg .t 0o1010, .reg .x 0o1010]).memoryWf ∧
        (start [.mem 0o1010 v, .reg .t 0o1010, .reg .x 0o1010]).modifies .pt 0o1010 v (.mem 0o1010) ∧
        (start [.mem 0o1010 v, .reg .t 0o1010, .reg .x 0o1010]).userMode = false ∧
        (∃ u, readVirt .pt 0o1010 (start [.mem 0o1010 v, .reg .t 0o1010, .reg .x 0o1010]) = .ok v u) := by
  intro v hv
  fin_cases hv <;> exact ⟨⟨by decide, by decide⟩, ⟨_, _, _, rfl, rfl, rfl⟩, by decide, _, rfl⟩

theorem witness_accumulate :
    (start [.mem 0o1010 0o100000]).memoryWf ∧ (start [.mem 0o1010 0o100000]).reads atTen 0o100000 :=
  ⟨⟨by decide, by decide⟩, _, rfl⟩

/-- A 32-bit floating word whose mantissa is a power of two. -/
theorem floatValue_power (w : BitVec 48) (e : BitVec 9) (h : w ≠ 0) (he : w.extractLsb' 22 9 = e) (h0 : e ≠ 0)
    (hs : w.getLsbD 31 = false) (hm : w.extractLsb' 0 22 = 0) (n : ℤ) (hn : (e.toNat : ℤ) - 256 = n) :
    floatValue false w = some ((2 ^ 22 : ℚ) / 2 ^ 23 * 2 ^ n) := by
  subst hn
  simp only [floatValue, if_neg h, he, if_neg h0, hs, hm]
  norm_num

/-- The words 0o040100 0 are 1 in the 32-bit format (spec/95_test_vectors.md S35), the words 0o040200 0 are 2. -/
theorem floatValue_one : floatValue false 0x40400000 = some 1 := by
  rw [floatValue_power 0x40400000 257 (by decide) (by decide) (by decide) (by decide) (by decide) 1 (by decide)]
  norm_num

theorem floatValue_two : floatValue false 0x40800000 = some 2 := by
  rw [floatValue_power 0x40800000 258 (by decide) (by decide) (by decide) (by decide) (by decide) 2 (by decide)]
  norm_num

/-- 1 + 1 in the 32-bit format; division by the zero word. -/
theorem witness_floatArithmetic :
    let s := start [.reg .a 0o40100, .mem 0o1010 0o40100]
    s.memoryWf ∧ (∃ u, readFloat atTen s = .ok 0x40400000 u) ∧ floatValue s.cfg.fp48 s.accumulator = some 1 ∧
      floatValue s.cfg.fp48 0x40400000 = some 1 ∧ (0x40800000 : BitVec 48).extractLsb' 32 16 = 0 ∧
      floatValue s.cfg.fp48 0x40800000 = some (1 + 1) ∧ (∃ u, readFloat atTen (start []) = .ok 0 u) := by
  have ha : (start [.reg .a 0o40100, .mem 0o1010 0o40100]).accumulator = 0x40400000 := by decide
  refine ⟨⟨by decide, by decide⟩, ⟨_, rfl⟩, ?_, floatValue_one, by decide, ?_, _, rfl⟩
  · rw [ha]; exact floatValue_one
  · rw [one_add_one_eq_two]; exact floatValue_two

/-- 1 fits a word; 65536 does not. -/
theorem witness_floatConversions :
    (integerPart 1).natAbs ≤ 32767 ∧ 32767 < (integerPart 65536).natAbs ∧
      floatValue false (start [.reg .a 0o40100]).accumulator = some 1 ∧
      floatValue false (start [.reg .a 0o42100]).accumulator = some 65536 := by
  have ha : (start [.reg .a 0o40100]).accumulator = 0x40400000 := by decide
  have hb : (start [.reg .a 0o42100]).accumulator = 0x44400000 := by decide
  refine ⟨?_, ?_, ?_, ?_⟩
  · norm_num [integerPart]
  · norm_num [integerPart]
  · rw [ha]; exact floatValue_one
  · rw [hb, floatValue_power 0x44400000 273 (by decide) (by decide) (by decide) (by decide) (by decide) 17 (by decide)]
    norm_num

/-- The modes with and without indirection, and a pointer in missing memory. -/
theorem witness_jumpInstructions :
    (start []).memoryWf ∧ (∃ p u, effAddr atTen (start []) = .ok p u) ∧
      ∃ o, effAddr { atTen with i := true } noMemory = .stop o :=
  ⟨⟨by decide, by decide⟩, ⟨_, _, rfl⟩, _, rfl⟩

/-- For RegisterMoves and RegisterAdd: two registers, one twice, none. -/
theorem witness_registerOperations :
    ¬(true = true ∧ false = true) ∧ (some Reg.a = some .a ∧ some Reg.d = some .d ∧ Reg.a ≠ .d) ∧
      (some Reg.a = some .a ∧ true = true) ∧ (none : Option Reg) = none := by decide

/-- Quotients at the two ends of a word and beyond them. -/
theorem witness_multiplyDivide :
    ((0 : Word) ++ (0o77777 : Word)).toInt = 32767 * (1 : Int) + 0 ∧ outOfWord 32767 = false ∧
      ((0 : Word) ++ (0o100000 : Word)).toInt = 32768 * (1 : Int) + 0 ∧ outOfWord 32768 = true ∧
      ((0xFFFF : Word) ++ (0o77777 : Word)).toInt = -32769 * (1 : Int) + 0 ∧ outOfWord (-32769) = true ∧
      outOfWord (-32768) = false ∧ (start []).operandOf (some .a) = 0 := by decide

/-- A word that executes, one that is SAA, one that is EXR, one that is undefined. -/
theorem witness_registerExecute :
    decodeWord ((start [.reg .a 0o014177]).operandOf (some .a)) =
        .ok (.stx { x := false, i := false, b := false, disp := 0o177 }) ∧
      (start [.reg .a 0o170777]).operandOf (some .a) = 0o170400 + (0xFF : BitVec 8).setWidth 16 ∧
      (start [.reg .a 0o140650]).operandOf (some .a) &&& 0o177707 = 0o140600 ∧
      decodeWord ((start [.reg .a 0o160000]).operandOf (some .a)) = .error (.undefinedWord 0o160000) := by decide

/-- The counts -32, -1, 0, 1 and 31. -/
theorem witness_shifts :
    (0o40 : BitVec 6).toInt = -32 ∧ (0o77 : BitVec 6).toInt = -1 ∧ (0 : BitVec 6).toInt = 0 ∧ (1 : BitVec 6).toInt = 1 ∧
      (0o37 : BitVec 6).toInt = 31 := by decide

/-- For BitStores, BitLoads and BitSkips: the last flag, the last bit of a register. -/
theorem witness_bits : (StsOrReg.sts = .sts → (7 : BitVec 4) < 8) ∧ (StsOrReg.reg .p = .sts → (15 : BitVec 4) < 8) := by
  decide

/-- An even and an odd byte. -/
theorem witness_byteAccess (odd : Bool) :
    let s := start [.reg .t 0o1010, .reg .x (if odd then 1 else 0), .mem 0o1010 0o123456]
    s.memoryWf ∧ (∃ u, readVirt .pt 0o1010 s = .ok 0o123456 u) ∧ s.modifies .pt 0o1010 0o123456 (.mem 0o1010) := by
  cases odd <;> exact ⟨⟨by decide, by decide⟩, ⟨_, rfl⟩, _, _, _, rfl, rfl, rfl⟩

/-- Fields of no byte, of one and of the longest length. -/
theorem witness_byteBlocks :
    ∀ w ∈ [0#16, 1, 0o7777], (start [.reg .t w, .reg .d w]).memoryWf ∧ (start [.reg .t w, .reg .d w]).plain ∧
      ((start [.reg .t w, .reg .d w]).reg .t).getLsbD 13 = false ∧
      ((start [.reg .t w, .reg .d w]).reg .d).getLsbD 13 = false := by
  intro w hw
  fin_cases hw <;> exact ⟨⟨by decide, by decide⟩, plain_of_reset (by decide) (by decide), by decide, by decide⟩

/-- The last count that moves and the first that does not. -/
theorem witness_moveWords :
    (start [.reg .l 2048]).memoryWf ∧ (start [.reg .l 2048]).plain ∧ ((start [.reg .l 2048]).reg .l).toNat ≤ 2048 ∧
      (start [.reg .l 2049]).memoryWf ∧ (start [.reg .l 2049]).plain ∧ 2048 < ((start [.reg .l 2049]).reg .l).toNat :=
  ⟨⟨by decide, by decide⟩, plain_of_reset (by decide) (by decide), by decide, ⟨by decide, by decide⟩,
    plain_of_reset (by decide) (by decide), by decide⟩

theorem witness_version : (9 : Fin 16).val = (((start [.reg .a 0o4400]).reg .a).extractLsb' 8 4).toNat := by decide

theorem witness_decimalRoundTrip : (10 : Nibble) ≤ 12 ∧ 0 < 1 ∧ (AsciiForm.unsigned = .unsigned → false = false) := by
  decide

/-- Operands of vector V250 (+123, +456), of V252 (an illegal sign), and the sum that does not fit (999 + 1). -/
def operands (v w : Word) : State :=
  start [.reg .a 0o2000, .reg .d 4, .reg .x 0o2010, .reg .t 4, .mem 0o2000 v, .mem 0o2010 w]

theorem witness_decimalArithmetic :
    (∀ v ∈ [0x123C#16, 0x999C, 0x1234], (operands v 0x001C).memoryWf ∧ (operands v 0x001C).plain ∧
        ((operands v 0x001C).reg .d).getLsbD 14 = false ∧ ((operands v 0x001C).reg .t).getLsbD 14 = false ∧
        (firstField (operands v 0x001C)).length = 4 ∧ (secondField (operands v 0x001C)).length = 4) ∧
      (operands 0x123C 0x001C).bcd (firstField (operands 0x123C 0x001C)) =
        some { neg := false, unsigned := false, mag := 123 } ∧
      (operands 0x999C 0x001C).bcd (firstField (operands 0x999C 0x001C)) =
        some { neg := false, unsigned := false, mag := 999 } ∧
      (operands 0x999C 0x001C).bcd (secondField (operands 0x999C 0x001C)) =
        some { neg := false, unsigned := false, mag := 1 } ∧
      (operands 0x1234 0x001C).bcd (firstField (operands 0x1234 0x001C)) = none := by
  refine ⟨?_, by decide, by decide, by decide, by decide⟩
  intro v hv
  fin_cases hv <;> exact ⟨⟨by decide, by decide⟩, plain_of_reset (by decide) (by decide), by decide, by decide,
    by decide, by decide⟩

/-- "1B", which is +12; an illegal byte; BCD +123; an illegal digit. -/
theorem witness_decimalConversions :
    (let s := start [.reg .a 0o2000, .reg .d 2, .reg .x 0o2010, .reg .t 4, .mem 0o2000 0o30502]
     ∀ r ∈ s.ascii (firstField s), r ≠ none) ∧
      ((operands 0x2042 0).ascii (firstField (operands 0x2042 0))).findIdx? (· == none) = some 0 ∧
      (operands 0x123C 0).bcd (firstField (operands 0x123C 0)) = some { neg := false, unsigned := false, mag := 123 } ∧
      (bcdChecks (nibbles ((operands 0x1A3C 0).decimalBytes (firstField (operands 0x1A3C 0)) 2))).findIdx? (· == false)
        = some 1 ∧
      (operands 0x123C 0).memoryWf ∧ (operands 0x123C 0).plain ∧ (firstField (operands 0x123C 0)).length % 2 = 0 ∧
      (secondField (operands 0x123C 0)).length % 2 = 0 :=
  ⟨by decide, by decide, by decide, by decide, ⟨by decide, by decide⟩, plain_of_reset (by decide) (by decide), by decide,
    by decide⟩

/-- ENTR: a frame that fits exactly and one that is a word too large; INIT likewise and with a wrong flag. -/
theorem witness_stackFrames :
    let s := start [.reg .b 0o10200, .mem 0o1001 0o300, .mem 0o10002 0o10300, .mem 0o10003 0o11000]
    let n := start [.mem 0o1001 0o100, .mem 0o1002 0o4000, .mem 0o1003 0o300, .mem 0o1004 0]
    s.memoryWf ∧ (∃ u, readVirt .pt 0o1001 s = .ok 0o300 u) ∧ (∃ u, readVirt .pt 0o10002 s = .ok 0o10300 u) ∧
      (∃ u, readVirt .pt 0o10003 s = .ok 0o11000 u) ∧ 0o300 + (0o10300 + 0o200) ≤ 0o11000 ∧
      (∃ gs w, mapRes (resolve .write .pt) [0o10300, 0o10301, 0o10302, 0o10303] s = .ok gs w ∧ .absent ∉ gs) ∧
      n.memoryWf ∧ (∃ u, readVirt .pt 0o1004 n = .ok 0 u) ∧
      (0 : Word).getLsbD 0 = n.flag .ptm ∧ (1 : Word).getLsbD 0 ≠ n.flag .ptm ∧
      (0o100 + (0o4000 + 0o200) : Word).toNat ≤ (0o4000 + 0o300 : Word).toNat ∧
      (0o4000 + 0o300 : Word).toNat < (0o101 + (0o4000 + 0o200) : Word).toNat ∧
      (∃ link g h u v w x, readVirt .pt 0o10000 s = .ok link u ∧ resolve .write .pt 0o10000 u = .ok g v ∧
        (∃ k y, ((readVirt .pt 0o10001 v).bind fun p w => resolve .write .pt (p - 0o173) w) = .ok k y) ∧
        readVirt .pt 0o10001 (store g (link - 1) v) = .ok 0 w ∧ resolve .write .pt (0 - 0o173) w = .ok h x ∧ g ≠ h) :=
  ⟨⟨by decide, by decide⟩, ⟨_, rfl⟩, ⟨_, rfl⟩, ⟨_, rfl⟩, by decide, ⟨_, _, rfl, by decide⟩, ⟨by decide, by decide⟩, ⟨_, rfl⟩,
    by decide, by decide, by decide, by decide,
    _, _, _, _, _, _, _, rfl, rfl, ⟨_, _, rfl⟩, rfl, rfl, by decide⟩

/-- Outside user mode, eight words readable and writable; own level and another. -/
theorem witness_levelRegisters :
    (start [.reg .x 0o3000]).memoryWf ∧ (start [.reg .x 0o3000]).userMode = false ∧
      (∃ u, readList .pt (consecutive 0o3000 8) (start [.reg .x 0o3000]) = .ok [0, 0, 0, 0, 0, 0, 0, 0] u) ∧
      (∃ gs u, mapRes (resolve .write .pt) (consecutive 0o3000 8) (start [.reg .x 0o3000]) = .ok gs u ∧ .absent ∉ gs) ∧
      (start [.reg .x 0o3000]).pil ≠ 14 :=
  ⟨⟨by decide, by decide⟩, by decide, ⟨_, rfl⟩, ⟨_, _, rfl, by decide⟩, by decide⟩

/-- For InternalRead, InternalWrite, Identify, SystemControl and Wait: outside user mode, with bit 15 of X clear and set, both page-table modes, both states of the interrupt system. -/
theorem witness_privileged :
    State.reset.userMode = false ∧ ((start [.reg .x 0o77777]).reg .x).msb = false ∧
      ((start [.reg .x 0o100000]).reg .x).msb = true ∧ (start [.reg .x 0o100000]).userMode = false ∧
      State.reset.cfg.ptMode = .sixteen ∧ ({ resetConfig with ptMode := .four } : Config).ptMode = .four ∧
      State.reset.ioni = false ∧ (onLevel1 []).ioni = true ∧ (onLevel1 []).pil ≠ 0 ∧ (onLevel1 []).userMode = false ∧
      ({ State.reset with ioni := true } : State).pil = 0 ∧ ({ State.reset with req10 := [5] } : State).req10 = 5 :: [] := by
  decide

/-- Input and output addresses. -/
theorem witness_inputOutput :
    State.reset.userMode = false ∧ (0 : Word).getLsbD 0 = false ∧ (0o3777 : Word).getLsbD 0 = true := by decide

theorem witness_physicalLoads :
    State.reset.memoryWf ∧ (∃ v u, readPhys 0xFFFFFF State.reset = .ok v u) ∧
      (∃ g u, resolvePhys .read 0xFFFFFF State.reset = .ok g u) :=
  ⟨⟨by decide, by decide⟩, ⟨_, _, rfl⟩, _, _, rfl⟩

theorem witness_physicalStores :
    (∃ g u, resolvePhys .write 0xFFFFFF State.reset = .ok g u) ∧ State.reset.modifiesPhys 0o174000 0 (.ptab 0) :=
  ⟨⟨_, _, rfl⟩, _, _, _, rfl, rfl, rfl⟩

/-- For ListWalks, EnterElement, ClearElement and ClearByBitmap: an empty list, and a list of one element whose entry is
used and unused. -/
theorem witness_lists :
    (start []).memoryWf ∧ (start []).plain ∧ (start []).reg .x = 0 ∧
      (let s : State := { start [.reg .x 0o2000, .mem 0o2001 5, .ptab 0o3012 0o164000] with pollAfter := 1 }
       s.memoryWf ∧ s.plain ∧ s.reg .x ≠ 0 ∧ s.pollAfter = 1 ∧ s.word 0o177012 = 0o164000) ∧
      (let s : State := { start [.reg .x 0o2000, .mem 0o2001 5] with pollAfter := 1 }
       s.memoryWf ∧ s.plain ∧ s.reg .x ≠ 0 ∧ s.pollAfter = 1 ∧ s.word 0o177012 = 0) :=
  ⟨⟨by decide, by decide⟩, plain_of_reset (by decide) (by decide), by decide,
    ⟨⟨by decide, by decide⟩, plain_of_reset (by decide) (by decide), by decide, by decide, by decide⟩,
    ⟨by decide, by decide⟩, plain_of_reset (by decide) (by decide), by decide, by decide, by decide⟩

/-- The state of test_inspl: the words are different words. -/
theorem witness_pageLists :
    let s := start [.reg .x 0o2000, .reg .b 0o3000, .mem 0o3007 0o2400, .mem 0o2000 0o2400, .mem 0o2001 0o3000]
    s.memoryWf ∧ s.plain ∧ s.wordAt (s.physTarget 0o3007) = 0o2400 ∧ s.wordAt (s.physTarget 0o2000) = 0o2400 ∧
      [s.physTarget 0o3007, s.physTarget 0o2000, s.physTarget 0o2001, s.physTarget 0o2003, s.physTarget 0o2401].Nodup ∧
      [s.physTarget 0o3000, s.physTarget 0o2000, s.physTarget 0o2001, s.physTarget 0o2401].Nodup :=
  ⟨⟨by decide, by decide⟩, plain_of_reset (by decide) (by decide), by decide, by decide, by decide, by decide⟩

theorem witness_statedRefusals :
    (8 : BitVec 4) ≤ 8 ∧ (0o20000 : Word).getLsbD 13 = true ∧ (0o40000 : Word).getLsbD 14 = true ∧
      (1 : Word).getLsbD 14 = false ∧ (1 : Word).getLsbD 0 = true := by decide

/-! ### Refused accesses -/

/-- A machine in which accesses of one kind to one word fail, with memory errors enabled. -/
def failing (kind : AccessKind) (a : Word) (before : List Part) : State :=
  { (start before).memoryFails { addr := physAddr 0 a, kind := kind, fatal := false, code := 0 } with iie := 0o400 }

/-- Some access is refused. -/
def Stops {α : Type} (r : Res α) : Prop := ∃ o, r = .stop o

/-- The first, the second and the third word. -/
theorem witness_doubleWordsRefused :
    (∀ a ∈ [0o1010#16, 0o1011],
        Stops ((effAddr atTen (failing .read a [])).bind fun p u => readTwo p.tbl p.addr u) ∧
          Stops ((effAddr atTen (failing .write a [])).bind fun p u => resolve2 .write p.tbl p.addr (p.addr + 1) u)) ∧
      ∀ a ∈ [0o1010#16, 0o1011, 0o1012],
        Stops ((effAddr atTen (failing .read a [])).bind fun p u => readThree p.tbl p.addr u) ∧
          Stops ((effAddr atTen (failing .write a [])).bind fun p u =>
            (resolve2 .write p.tbl p.addr (p.addr + 1) u).bind fun _ w => resolve .write p.tbl (p.addr + 2) w) := by
  refine ⟨fun a ha => ?_, fun a ha => ?_⟩ <;> fin_cases ha <;> exact ⟨⟨_, rfl⟩, _, rfl⟩

/-- The read and the write of one word: MIN, TSET, SBIT, SBYT; SBITP, SBYTP, TSETP. -/
theorem witness_readModifyWriteRefused :
    ∀ kind ∈ [AccessKind.read, .write],
      Stops ((effAddr atTen (failing kind 0o1010 [])).bind fun p u => (resolve .read p.tbl p.addr u).bind fun _ w =>
          resolve .write p.tbl p.addr w) ∧
        Stops ((resolve .read .pt 0o1010 (failing kind 0o1010 [])).bind fun _ u => resolve .write .pt 0o1010 u) ∧
        Stops ((resolvePhys .read 0o1010 (failing kind 0o1010 [])).bind fun _ u => resolvePhys .write 0o1010 u) := by
  intro kind hk
  fin_cases hk <;> exact ⟨⟨_, rfl⟩, ⟨_, rfl⟩, _, rfl⟩

/-- The operand of RDUS, LBIT, LBYT, of ADD and of FAD; a physical word, the second of LDDTX and of STDTX; the eight words
of LRB and SRB, outside user mode. -/
theorem witness_operandsRefused :
    Stops (readVirt .pt 0o1010 (failing .read 0o1010 [])) ∧ Stops (readOperand atTen (failing .read 0o1010 [])) ∧
      Stops (readFloat atTen (failing .read 0o1011 [])) ∧ Stops (readPhys 0o1010 (failing .read 0o1010 [])) ∧
      Stops ((resolvePhys .read 0o1010 (failing .read 0o1011 [])).bind fun _ u => resolvePhys .read 0o1011 u) ∧
      Stops ((resolvePhys .write 0o1010 (failing .write 0o1011 [])).bind fun _ u => resolvePhys .write 0o1011 u) ∧
      Stops (resolvePhys .write 0o1010 (failing .write 0o1010 [])) ∧
      Stops (readList .pt (consecutive 0o1010 8) (failing .read 0o1017 [])) ∧
      Stops (mapRes (resolve .write .pt) (consecutive 0o1010 8) (failing .write 0o1017 [])) ∧
      (failing .read 0o1017 []).userMode = false :=
  ⟨⟨_, rfl⟩, ⟨_, rfl⟩, ⟨_, rfl⟩, ⟨_, rfl⟩, ⟨_, rfl⟩, ⟨_, rfl⟩, ⟨_, rfl⟩, ⟨_, rfl⟩, ⟨_, rfl⟩, by decide⟩

/-- The last of three bytes of BFILL; the source and the destination of MOVB and MOVBF. -/
theorem witness_byteBlocksRefused :
    let words (a : Word) : List Word := (List.range 3).map fun k => (fieldByte a false k).addr
    let both (a : Word) (u : State) : Res Word :=
      (resolve .read .pt a u).bind fun g v => (resolve .write .pt a v).bind fun _ w => load g w
    (3 : Word).getLsbD 13 = false ∧
      Stops (mapRes (fun a u => (resolve .write .pt a u).bind load) (words 0o1010) (failing .write 0o1011 [])) ∧
      ∀ s ∈ [failing .read 0o1011 [], failing .read 0o1021 [], failing .write 0o1021 []],
        Stops ((mapRes (readVirt .pt) (words 0o1010) s).bind fun _ u => mapRes both (words 0o1020) u) ∧
          Stops (mapRes (fun p u => (readVirt .pt p.1 u).bind fun _ v => both p.2 v)
            ((words 0o1010).zip (words 0o1020)) s) := by
  refine ⟨by decide, ⟨_, rfl⟩, fun s hs => ?_⟩
  simp only [List.mem_cons, List.not_mem_nil, or_false] at hs
  rcases hs with rfl | rfl | rfl <;> exact ⟨⟨_, rfl⟩, _, rfl⟩

/-- ENTR and INIT in their reads and in the last word of the frame; LEAVE; ELEAV in LINK and in ERRCODE. -/
theorem witness_stackFramesRefused :
    let s (kind : AccessKind) (a : Word) := failing kind a
      [.reg .b 0o10200, .mem 0o1001 0o300, .mem 0o10001 0o4000, .mem 0o10002 0o10300, .mem 0o10003 0o11000]
    let n (kind : AccessKind) (a : Word) := failing kind a [.mem 0o1001 0o100, .mem 0o1002 0o4000, .mem 0o1003 0o300]
    Stops ((readVirt .pt 0o1001 (s .read 0o10003)).bind fun _ u => (readVirt .pt 0o10002 u).bind fun _ v =>
        readVirt .pt 0o10003 v) ∧
      Stops (mapRes (resolve .write .pt) [0o10300, 0o10301, 0o10302, 0o10303] (s .write 0o10303)) ∧
      (∃ u, readVirt .pt 0o10003 (s .write 0o10303) = .ok 0o11000 u) ∧
      Stops ((readVirt .pt 0o1001 (n .read 0o1004)).bind fun _ u => (readVirt .pt 0o1002 u).bind fun _ v =>
        (readVirt .pt 0o1003 v).bind fun _ w => readVirt .pt 0o1004 w) ∧
      Stops (mapRes (resolve .write .pt) [0o4000, 0o4001, 0o4002, 0o4003] (n .write 0o4003)) ∧
      (∃ u, readVirt .pt 0o1002 (n .write 0o4003) = .ok 0o4000 u) ∧
      Stops ((readVirt .pt 0o10000 (s .read 0o10001)).bind fun _ u => readVirt .pt 0o10001 u) ∧
      ∀ a ∈ [0o10000#16, 0o4000 - 0o173],
        Stops ((readVirt .pt 0o10000 (s .write a)).bind fun _ u => (resolve .write .pt 0o10000 u).bind fun _ v =>
          (readVirt .pt 0o10001 v).bind fun prevb w => resolve .write .pt (prevb - 0o173) w) := by
  refine ⟨⟨_, rfl⟩, ⟨_, rfl⟩, ⟨_, rfl⟩, ⟨_, rfl⟩, ⟨_, rfl⟩, ⟨_, rfl⟩, ⟨_, rfl⟩, fun a ha => ?_⟩
  fin_cases ha <;> exact ⟨_, rfl⟩

/-- STD whose second word is refused stores nothing and leaves P: code 0o10 on level 14. -/
theorem test_std_second_word :
    nextHas (exec (.std atTen) { failing .write 0o1011 [.reg .a 7] with ioni := true, pie := 0o40000 })
      (fun t => t.iic == 8 && t.pil == 14 && (t.level 0).p == 0o1000 && t.mem == (start [.reg .a 7]).mem) = true := by
  decide

/-! ### Accesses in the order of the pseudocode -/

/-- A program of ring 3 with paging on, whose data addresses 0o2000 and 0o4000 have the page-table words at 0o174002 and
0o174004, which it reaches as data. -/
def inRing3 (regs : List Part) (w1 w2 : Word) : State :=
  { start regs with
    poni := true, sexi := true, pcr := State.reset.pcr.set 0 { pt := 0, apt := 0, ring := 3 }
    ptab := Memory.setWord (Memory.setWord [] 2 w1) 4 w2 }

/-- MOVEW of the page-table word of its own destination: the source is read before the destination is marked. -/
theorem test_movew_order :
    nextHas (exec (.movew .ptPt) (inRing3 [.reg .d 0o174002, .reg .t 0o2000, .reg .l 1] 0o160000 0))
      (fun t => Memory.word t.mem 0 == 0o160000 && Memory.word t.ptab 2 == 0o174000) = true := by decide

/-- So do MOVB and MOVBF. -/
theorem test_move_bytes_order :
    ∀ i ∈ [Instr.movb, .movbf],
      nextHas (exec i (inRing3 [.reg .a 0o174002, .reg .d 1, .reg .x 0o2000, .reg .t 1] 0o160000 0))
        (fun t => Memory.word t.mem 0 == 0o160000 && Memory.word t.ptab 2 == 0o174000) = true := by decide

/-- ELEAV whose LINK is the page-table word of the page of ERRCODE: counted down it permits no write any more, and the
instruction ends with code 2 and with LINK and B as they were. -/
theorem test_eleav_withdrawn :
    nextHas
      (exec .eleav
        { inRing3 [.reg .b 0o174204] 0 0o100000 with
          ptab := Memory.setWord (Memory.setWord [] 4 0o100000) 5 0o4173, ioni := true, pie := 0o40000, iie := 4 })
      (fun t => t.iic == 2 && t.pil == 14 && (t.level 0).b == 0o174204 && Memory.word t.ptab 4 == 0o114000) = true := by
  decide

/-- CNREK: the second bitmap word lies in an entry that the first clears, and is read as zero. -/
theorem test_cnrek_order :
    nextHas
      (exec .cnrek (start [.reg .a 0o2000, .reg .x 0o174177, .mem 0o2002 0o100, .ptab 0o177 1, .ptab 0o200 1, .ptab 0o240 7]))
      (fun t => Memory.word t.ptab 0o200 == 0 && Memory.word t.ptab 0o240 == 7) = true := by decide

end Sys2Proof.Tests
end

section
/-! PROOF. The memory transfer instructions that move one word: the loads of one register (O17) and the stores of one word
(O19), each settled through the one meaning its instructions share, `loadRegister` or `storeWord`. -/

namespace Sys2Proof.Machine

/-! ### The end of an instruction -/

/-- Ending an instruction adds P alone to what has changed. -/
theorem State.Frame.advance {rs : List Reg} {fs : List Flag} {gs : List Target} {s t : State} (h : s.Frame rs fs gs t) :
    s.Frame (rs ++ [.p]) fs gs t.advance := by
  simpa using h.trans t.frame_advance

/-- Writing a register changes it alone of what a frame lists. -/
theorem State.Frame.setReg {rs : List Reg} {fs : List Flag} {gs : List Target} {s t : State} (h : s.Frame rs fs gs t)
    (c : Reg) (v : Word) : s.Frame (rs ++ [c]) fs gs (t.setReg c v) := by
  simpa using h.trans (t.frame_setReg c v)

/-- A store after accesses changes no byte outside its target. -/
theorem State.Accessed.frame_store {s t : State} (h : s.Accessed t) (hw : s.memoryWf) (g : Target) (v : Word) :
    s.Frame [] [] [g] (store g v t) := by
  simpa using (h.frame hw [] []).trans (Sys2Proof.Machine.frame_store g v (h.memoryWf hw))

@[simp] theorem State.wordAt_advance (s : State) (g : Target) : s.advance.wordAt g = s.wordAt g := by
  cases g <;> rfl

@[simp] theorem reg_store (g : Target) (v : Word) (s : State) (c : Reg) : (store g v s).reg c = s.reg c := by
  cases g <;> rfl

/-! ### Loads of one register -/

/-- A load whose accesses go on: the register has the word read, P the next address, and nothing else has changed. The
register is not P, which the end of the instruction writes again. -/
theorem loadRegister_of_reads {r : Reg} {m : MemOperand} {s : State} {v : Word} (hw : s.memoryWf) (hr : r ≠ .p)
    (h : s.reads m v) :
    ∃ t, loadRegister r m s = .next t ∧ t.reg r = v ∧ t.reg .p = s.reg .p + 1 ∧ s.Frame [r, .p] [] [] t := by
  obtain ⟨u, hu⟩ := h
  have acc : s.Accessed u := readOperand_accessed hu
  refine ⟨(u.setReg r v).advance, by simp [loadRegister, hu], ?_, ?_, ((acc.frame hw [] []).setReg r v).advance⟩
  · rw [State.reg_advance _ hr, State.reg_setReg_same]
  · rw [State.reg_advance_p, State.reg_setReg_ne _ _ hr.symm, acc.reg]

/-- A load one of whose accesses is refused ends with that access. -/
theorem loadRegister_of_stop {m : MemOperand} {s : State} {o : Out} (r : Reg) (h : readOperand m s = .stop o) :
    loadRegister r m s = o := by
  simp [loadRegister, h]

/-- LDA, LDT and LDX are loads of a register other than P. -/
theorem exec_eq_loadRegister (m : MemOperand) (s : State) :
    ∀ p ∈ [(Instr.lda m, Reg.a), (.ldt m, .t), (.ldx m, .x)], p.2 ≠ .p ∧ exec p.1 s = loadRegister p.2 m s := by
  simp only [List.forall_mem_cons]
  exact ⟨⟨by decide, rfl⟩, ⟨by decide, rfl⟩, ⟨by decide, rfl⟩, List.forall_mem_nil _⟩

/-- Settles O17: LDA, LDT and LDX are `loadRegister` of their registers, whose accesses either all go on or end it. -/
theorem loadRegisters : Obligations.LoadRegisters := by
  intro m s hw
  refine ⟨rfl, fun p hp => ?_⟩
  obtain ⟨hr, hexec⟩ := exec_eq_loadRegister m s p hp
  rw [hexec]
  exact ⟨fun v hv => loadRegister_of_reads hw hr hv, fun o ho => loadRegister_of_stop p.2 ho⟩

/-! ### Stores of one word -/

/-- Writing the operand word is the accesses to its target and the store there. -/
theorem writeOperand_of_resolve {m : MemOperand} {s u w : State} {q : Place} {g : Target} (v : Word)
    (hea : effAddr m s = .ok q u) (hg : resolve .write q.tbl q.addr u = .ok g w) :
    writeOperand m v s = .ok () (store g v w) := by
  simp [writeOperand, writeVirt, hea, hg]

/-- A store whose accesses go on: its target, if it is there, holds the word, P is the next address, and nothing else has
changed. -/
theorem storeWord_of_writes {m : MemOperand} {s : State} {g : Target} (v : Word) (hw : s.memoryWf) (h : s.writes m g) :
    ∃ t, storeWord v m s = .next t ∧ (g ≠ .absent → t.wordAt g = v) ∧ t.reg .p = s.reg .p + 1
      ∧ s.Frame [.p] [] [g] t := by
  obtain ⟨q, u, w, hea, hg⟩ := h
  have acc : s.Accessed w := (effAddr_accessed hea).trans (resolve_accessed hg)
  refine ⟨(store g v w).advance, by simp [storeWord, writeOperand_of_resolve v hea hg], fun ha => ?_, ?_,
    (acc.frame_store hw g v).advance⟩
  · rw [State.wordAt_advance, wordAt_store v (acc.memoryWf hw) ha]
  · rw [State.reg_advance_p, reg_store, acc.reg]

/-- A store whose effective address cannot be fetched ends with that access. -/
theorem storeWord_of_effAddr_stop {m : MemOperand} {s : State} {o : Out} (v : Word) (h : effAddr m s = .stop o) :
    storeWord v m s = o := by
  simp [storeWord, writeOperand, h]

/-- A store whose target is refused ends with that access. -/
theorem storeWord_of_resolve_stop {m : MemOperand} {s u : State} {q : Place} {o : Out} (v : Word)
    (hea : effAddr m s = .ok q u) (h : resolve .write q.tbl q.addr u = .stop o) : storeWord v m s = o := by
  simp [storeWord, writeOperand, writeVirt, hea, h]

/-- STA, STT, STX and STZ are stores of A, T, X and zero. -/
theorem exec_eq_storeWord (m : MemOperand) (s : State) :
    ∀ p ∈ [(Instr.sta m, s.reg .a), (.stt m, s.reg .t), (.stx m, s.reg .x), (.stz m, 0)],
      exec p.1 s = storeWord p.2 m s := by
  simp only [List.forall_mem_cons]
  exact ⟨rfl, rfl, rfl, rfl, List.forall_mem_nil _⟩

/-- Settles O19: STA, STT, STX and STZ are `storeWord` of their words, which goes on, or ends at the effective address or at
the target. -/
theorem storeRegisters : Obligations.StoreRegisters := by
  intro m s hw
  refine ⟨rfl, rfl, fun p hp => ?_⟩
  rw [exec_eq_storeWord m s p hp]
  exact ⟨fun g hg => storeWord_of_writes p.2 hw hg, fun o ho => storeWord_of_effAddr_stop p.2 ho,
    fun q u o hea ho => storeWord_of_resolve_stop p.2 hea ho⟩

end Sys2Proof.Machine
end

section
/-! PROOF. The instructions that set a register to their argument (O32), through the one meaning they share,
`setArgument`. -/

namespace Sys2Proof.Machine

/-! ### Encoding an 8-bit field -/

/-- A code with bits 7 to 0 clear has no bit in common with an 8-bit number. -/
theorem and_setWidth_of_low_byte_clear {base : Word} (h : base.setWidth 8 = 0) (n : BitVec 8) :
    base &&& n.setWidth 16 = 0 := by
  ext i hi
  rcases Nat.lt_or_ge i 8 with hlow | hhigh
  · have hbit : base[i] = false := by
      simpa [hlow, BitVec.getLsbD_eq_getElem hi] using congrArg (·.getLsbD i) h
    simp [hbit]
  · simp [BitVec.getLsbD_of_ge n i hhigh]

/-- Setting the low byte of a code that has it clear is adding the number (R132, R136, R139). -/
theorem encodeByte_eq_add {base : Word} (h : base.setWidth 8 = 0) (n : BitVec 8) :
    encodeByte base n = base + n.setWidth 16 := by
  rw [BitVec.add_eq_or_of_and_eq_zero _ _ (and_setWidth_of_low_byte_clear h n)]
  simp [encodeByte, atBit]

/-! ### Setting a register to the argument -/

/-- The register set has the extended number. It is not P, which the end of the instruction writes again. -/
theorem setArgument_reg_same {r : Reg} (hr : r ≠ .p) (n : BitVec 8) (s : State) :
    (setArgument r n s).reg r = n.signExtend 16 := by
  rw [setArgument, State.reg_advance _ hr, State.reg_setReg_same, sext8]

theorem setArgument_reg_p {r : Reg} (hr : r ≠ .p) (n : BitVec 8) (s : State) :
    (setArgument r n s).reg .p = s.reg .p + 1 := by
  rw [setArgument, State.reg_advance_p, State.reg_setReg_ne _ _ hr.symm]

theorem frame_setArgument (r : Reg) (n : BitVec 8) (s : State) : s.Frame [r, .p] [] [] (setArgument r n s) :=
  (s.frame_setReg r (sext8 n)).advance

/-- SAA, SAT, SAB and SAX set a register other than P to their argument, the number in the clear low byte of their code. -/
theorem exec_eq_setArgument (n : BitVec 8) (s : State) :
    ∀ p ∈ [(Instr.saa n, 0o170400#16, Reg.a), (.sat n, 0o171000, .t), (.sab n, 0o170000, .b), (.sax n, 0o171400, .x)],
      p.2.1.setWidth 8 = 0 ∧ p.2.2 ≠ .p ∧ encode p.1 = encodeByte p.2.1 n
        ∧ exec p.1 s = .next (setArgument p.2.2 n s) := by
  simp only [List.forall_mem_cons]
  exact ⟨⟨rfl, by decide, rfl, rfl⟩, ⟨rfl, by decide, rfl, rfl⟩, ⟨rfl, by decide, rfl, rfl⟩, ⟨rfl, by decide, rfl, rfl⟩,
    List.forall_mem_nil _⟩

/-- Settles O32: SAA, SAT, SAB and SAX are `setArgument` of their registers, which writes that register and P. -/
theorem setArguments : Obligations.SetArguments := by
  intro n s p hp
  obtain ⟨hbase, hr, hencode, hexec⟩ := exec_eq_setArgument n s p hp
  exact ⟨hencode.trans (encodeByte_eq_add hbase n), setArgument p.2.2 n s, hexec, setArgument_reg_same hr n s,
    setArgument_reg_p hr n s, frame_setArgument p.2.2 n s⟩

end Sys2Proof.Machine
end

section
/-! PROOF. The encoding (O1, O2): decoding the word of an instruction, and the word of a decoded instruction, field by field
of each format (spec/30_encoding.md R131 to R142). -/

namespace Sys2Proof

/-! ### Fields of a word -/

theorem getElem_atBit {n : Nat} (f : BitVec n) (lo : Nat) {i : Nat} (h : i < 16) :
    (atBit f lo)[i] = (decide (lo ≤ i) && f.getLsbD (i - lo)) := by
  by_cases hl : lo ≤ i <;> simp [atBit, hl]

@[simp] theorem extractLsb'_atBit_same {n : Nat} (f : BitVec n) {lo : Nat} (h : lo + n ≤ 16) :
    (atBit f lo).extractLsb' lo n = f := by
  ext i hi
  simp [getElem_atBit, show lo + i < 16 by omega, hi, BitVec.getLsbD_eq_getElem]

@[simp] theorem extractLsb'_atBit_above {n : Nat} (f : BitVec n) {lo a k : Nat} (h : lo + n ≤ a) :
    (atBit f lo).extractLsb' a k = 0 := by
  ext i hi
  simp [atBit, BitVec.getLsbD_of_ge f (a + i - lo) (by omega)]

@[simp] theorem extractLsb'_atBit_below {n : Nat} (f : BitVec n) {lo a k : Nat} (h : a + k ≤ lo) :
    (atBit f lo).extractLsb' a k = 0 := by
  ext i hi
  simp [atBit, show a + i < lo by omega]

theorem toNat_extractLsb' (w : Word) (a k : Nat) : (w.extractLsb' a k).toNat = w.toNat / 2 ^ a % 2 ^ k := by
  simp [Nat.shiftRight_eq_div_pow]

theorem ofBool_getElem (w : Word) {i : Nat} (h : i < 16) : BitVec.ofBool w[i] = w.extractLsb' i 1 := by
  ext j hj
  simp [show j = 0 by omega, BitVec.getLsbD_eq_getElem, h]

/-- Words whose fields are the same, where the fields cover all bits, are equal. -/
theorem eq_of_fields {w v : Word} (fields : List (Nat × Nat))
    (cover : ∀ i < 16, ∃ p ∈ fields, p.1 ≤ i ∧ i < p.1 + p.2)
    (h : ∀ p ∈ fields, w.extractLsb' p.1 p.2 = v.extractLsb' p.1 p.2) : w = v := by
  ext i hi
  obtain ⟨p, hp, hlo, hhi⟩ := cover i hi
  have hbit := congrArg (·.getLsbD (i - p.1)) (h p hp)
  simpa [show i - p.1 < p.2 by omega, show p.1 + (i - p.1) = i by omega, hi, BitVec.getLsbD_eq_getElem] using hbit

/-! ### Codes of the fields -/

@[simp] theorem regOfCode_codeOfReg (r : Option Reg) : regOfCode (codeOfReg r) = r := by
  rcases r with _ | r
  · rfl
  · cases r <;> rfl

@[simp] theorem codeOfReg_regOfCode (c : BitVec 3) : codeOfReg (regOfCode c) = c := by
  revert c; decide

@[simp] theorem stsOrRegOfCode_codeOfStsOrReg (r : StsOrReg) : stsOrRegOfCode (codeOfStsOrReg r) = r := by
  rcases r with _ | r
  · rfl
  · cases r <;> rfl

@[simp] theorem codeOfStsOrReg_stsOrRegOfCode (c : BitVec 3) : codeOfStsOrReg (stsOrRegOfCode c) = c := by
  revert c; decide

/-! ### Parts of a word -/

/-- Words with the same bits from `k` up have the same fields there. -/
theorem field_of_high {w v : Word} {k : Nat} (h : w.extractLsb' k (16 - k) = v.extractLsb' k (16 - k)) (a n : Nat)
    (hk : k ≤ a) (hn : a + n ≤ 16) : w.extractLsb' a n = v.extractLsb' a n := by
  ext i hi
  have hbit := congrArg (·.getLsbD (a + i - k)) h
  simpa [show a + i - k < 16 - k by omega, show k + (a + i - k) = a + i by omega] using hbit

/-- A word whose bits below `k` are 0 has no field there. -/
theorem field_of_low_zero {w : Word} {k : Nat} (h : w.extractLsb' 0 k = 0) (a n : Nat) (hn : a + n ≤ k) :
    w.extractLsb' a n = 0 := by
  ext i hi
  simpa [show a + i < k by omega] using congrArg (·.getLsbD (a + i)) h

theorem getElem_of_low_zero {w : Word} {k : Nat} (h : w.extractLsb' 0 k = 0) (i : Nat) (hi : i < k) (h16 : i < 16) :
    w[i] = false := by
  simpa [hi, BitVec.getLsbD_eq_getElem, h16] using congrArg (·.getLsbD i) h

theorem eq_ofNat_of_toNat {n c : Nat} {x : BitVec n} (h : x.toNat = c) : x = BitVec.ofNat n c := by
  rw [← h, BitVec.ofNat_toNat, BitVec.setWidth_eq]

/-- Bits 15-8 from bits 15-11 and 10-8. -/
theorem high8_of_parts {w : Word} {a b : Nat} {v : BitVec 8} (h11 : (w.extractLsb' 11 5).toNat = a)
    (h8 : (w.extractLsb' 8 3).toNat = b) (hv : v.toNat = 8 * a + b) : w.extractLsb' 8 8 = v := by
  rw [toNat_extractLsb'] at h11 h8
  refine BitVec.eq_of_toNat_eq ?_
  rw [toNat_extractLsb']
  omega

/-- Bits 15-6 from bits 15-11 and 10-6. -/
theorem high10_of_parts {w : Word} {a b : Nat} {v : BitVec 10} (h11 : (w.extractLsb' 11 5).toNat = a)
    (h6 : (w.extractLsb' 6 5).toNat = b) (hv : v.toNat = 32 * a + b) : w.extractLsb' 6 10 = v := by
  rw [toNat_extractLsb'] at h11 h6
  refine BitVec.eq_of_toNat_eq ?_
  rw [toNat_extractLsb']
  omega

/-! ### The formats, read back -/

theorem memField_encodeMem {base : Word} (m : MemOperand) (hb : base.extractLsb' 0 11 = 0) :
    memField (encodeMem base m) = m := by
  simp [memField, encodeMem, flagBit, byteField, BitVec.extractLsb'_or, getElem_atBit,
    field_of_low_zero hb 0 8, getElem_of_low_zero hb]

theorem encodeMem_memField {base w : Word} (h : w.extractLsb' 11 5 = base.extractLsb' 11 5)
    (hb : base.extractLsb' 0 11 = 0) : encodeMem base (memField w) = w := by
  refine eq_of_fields [(0, 8), (8, 1), (9, 1), (10, 1), (11, 5)] (by decide) ?_
  simp [encodeMem, memField, flagBit, byteField, BitVec.extractLsb'_or, h, field_of_low_zero hb, ofBool_getElem]

theorem byteField_encodeByte {base : Word} (n : BitVec 8) (hb : base.extractLsb' 0 8 = 0) :
    byteField (encodeByte base n) = n := by
  simp [byteField, encodeByte, BitVec.extractLsb'_or, hb]

theorem encodeByte_byteField {base w : Word} (h : w.extractLsb' 8 8 = base.extractLsb' 8 8)
    (hb : base.extractLsb' 0 8 = 0) : encodeByte base (byteField w) = w := by
  refine eq_of_fields [(0, 8), (8, 8)] (by decide) ?_
  simp [byteField, encodeByte, BitVec.extractLsb'_or, h, hb]

theorem srField_encodeRegs {base : Word} (sr dr : Option Reg) (hb : base.extractLsb' 0 6 = 0) :
    srField (encodeRegs base sr dr) = sr := by
  simp [srField, encodeRegs, BitVec.extractLsb'_or, field_of_low_zero hb]

theorem drField_encodeRegs {base : Word} (sr dr : Option Reg) (hb : base.extractLsb' 0 6 = 0) :
    drField (encodeRegs base sr dr) = dr := by
  simp [drField, encodeRegs, BitVec.extractLsb'_or, field_of_low_zero hb]

theorem encodeRegs_fields {base w : Word} (h : w.extractLsb' 6 10 = base.extractLsb' 6 10)
    (hb : base.extractLsb' 0 6 = 0) : encodeRegs base (srField w) (drField w) = w := by
  refine eq_of_fields [(0, 3), (3, 3), (6, 10)] (by decide) ?_
  simp [encodeRegs, srField, drField, BitVec.extractLsb'_or, h, field_of_low_zero hb]

theorem level4_encodeLevel {base : Word} (n : BitVec 4) (dr : StsOrReg) (hb : base.extractLsb' 0 7 = 0) :
    level4 (encodeLevel base n dr) = n := by
  simp [level4, encodeLevel, BitVec.extractLsb'_or, field_of_low_zero hb]

theorem drOrSts_encodeLevel {base : Word} (n : BitVec 4) (dr : StsOrReg) (hb : base.extractLsb' 0 7 = 0) :
    drOrSts (encodeLevel base n dr) = dr := by
  simp [drOrSts, encodeLevel, BitVec.extractLsb'_or, field_of_low_zero hb]

theorem encodeLevel_fields {base w : Word} (h : w.extractLsb' 7 9 = base.extractLsb' 7 9)
    (hb : base.extractLsb' 0 7 = 0) : encodeLevel base (level4 w) (drOrSts w) = w := by
  refine eq_of_fields [(0, 3), (3, 4), (7, 9)] (by decide) ?_
  simp [encodeLevel, level4, drOrSts, BitVec.extractLsb'_or, h, field_of_low_zero hb]

theorem deltaField_encodeDelta {base : Word} (d : BitVec 3) (hb : base.extractLsb' 3 3 = 0) :
    deltaField (encodeDelta base d) = d := by
  simp [deltaField, encodeDelta, BitVec.extractLsb'_or, hb]

theorem encodeDelta_deltaField {base w : Word} (h : w.extractLsb' 6 10 = base.extractLsb' 6 10)
    (h0 : w.extractLsb' 0 3 = base.extractLsb' 0 3) (hb : base.extractLsb' 3 3 = 0) :
    encodeDelta base (deltaField w) = w := by
  refine eq_of_fields [(0, 3), (3, 3), (6, 10)] (by decide) ?_
  simp [encodeDelta, deltaField, BitVec.extractLsb'_or, h, h0, hb]

theorem shiftType_code (w : Word) (t : ShiftType) (h : w.extractLsb' 9 2 = codeOfShiftType t) : shiftType w = t := by
  unfold shiftType
  rw [h]
  cases t <;> rfl

@[simp] theorem codeOfShiftType_shiftType (w : Word) : codeOfShiftType (shiftType w) = w.extractLsb' 9 2 := by
  unfold shiftType
  generalize w.extractLsb' 9 2 = c
  revert c
  decide

theorem shiftType_encodeShift {base : Word} (t : ShiftType) (n : BitVec 6) (hb : base.extractLsb' 9 2 = 0) :
    shiftType (encodeShift base t n) = t := by
  refine shiftType_code _ _ ?_
  simp [encodeShift, BitVec.extractLsb'_or, hb]

theorem encodeShift_fields {base w : Word} (h : w.extractLsb' 11 5 = base.extractLsb' 11 5)
    (h6 : w.extractLsb' 6 3 = base.extractLsb' 6 3) (h9 : base.extractLsb' 9 2 = 0) (hb : base.extractLsb' 0 6 = 0) :
    encodeShift base (shiftType w) (w.extractLsb' 0 6) = w := by
  refine eq_of_fields [(0, 6), (6, 3), (9, 2), (11, 5)] (by decide) ?_
  simp [encodeShift, BitVec.extractLsb'_or, h, h6, h9, hb]

theorem skpCond_code (w : Word) (c : SkpCond) (h : w.extractLsb' 8 3 = codeOfCond c) : skpCond w = c := by
  unfold skpCond
  rw [h]
  cases c <;> rfl

@[simp] theorem codeOfCond_skpCond (w : Word) : codeOfCond (skpCond w) = w.extractLsb' 8 3 := by
  unfold skpCond
  generalize w.extractLsb' 8 3 = c
  revert c
  decide

theorem encodeSkp_fields {w : Word} (h : w.extractLsb' 11 5 = 24) (h6 : w.extractLsb' 6 2 = 0) :
    encodeRegs 0o140000 (srField w) (drField w) ||| atBit (codeOfCond (skpCond w)) 8 = w := by
  refine eq_of_fields [(0, 3), (3, 3), (6, 2), (8, 3), (11, 5)] (by decide) ?_
  simp [encodeRegs, srField, drField, BitVec.extractLsb'_or, h, h6]

theorem encodeRop_fields {base w : Word} (h : w.extractLsb' 8 8 = base.extractLsb' 8 8)
    (hb : base.extractLsb' 0 8 = 0) :
    encodeRop base (w.getLsbD 7) (w.getLsbD 6) (srField w) (drField w) = w := by
  refine eq_of_fields [(0, 3), (3, 3), (6, 1), (7, 1), (8, 8)] (by decide) ?_
  simp [encodeRop, encodeRegs, flagBit, srField, drField, BitVec.extractLsb'_or, h, field_of_low_zero hb, ofBool_getElem]

theorem encodeRadd_fields {w : Word} (h : w.extractLsb' 10 6 = 51) :
    encode (.radd (w.getLsbD 9) (w.getLsbD 8) (w.getLsbD 7) (w.getLsbD 6) (srField w) (drField w)) = w := by
  refine eq_of_fields [(0, 3), (3, 3), (6, 1), (7, 1), (8, 1), (9, 1), (10, 6)] (by decide) ?_
  simp [encode, encodeRop, encodeRegs, flagBit, srField, drField, BitVec.extractLsb'_or, h, ofBool_getElem]

/-! ### Decoding the word of an instruction -/

/-- A decoder that reads an instruction by bits 15-11 and format MEM reads its word (R131). -/
theorem decodeWord_encodeMem {base : Word} {mk : MemOperand → Instr} (m : MemOperand)
    (h : ∀ w : Word, w.extractLsb' 11 5 = base.extractLsb' 11 5 → decodeWord w = .ok (mk (memField w)))
    (hb : base.extractLsb' 0 11 = 0) : decodeWord (encodeMem base m) = .ok (mk m) := by
  rw [h _ (by simp [encodeMem, flagBit, BitVec.extractLsb'_or]), memField_encodeMem m hb]

theorem decodeWord_encodeByte {base : Word} {mk : BitVec 8 → Instr} (n : BitVec 8)
    (h : ∀ w : Word, w.extractLsb' 11 5 = base.extractLsb' 11 5 → w.extractLsb' 8 3 = base.extractLsb' 8 3 →
      decodeWord w = .ok (mk (byteField w)))
    (hb : base.extractLsb' 0 8 = 0) : decodeWord (encodeByte base n) = .ok (mk n) := by
  rw [h _ (by simp [encodeByte, BitVec.extractLsb'_or]) (by simp [encodeByte, BitVec.extractLsb'_or]),
    byteField_encodeByte n hb]

theorem decodeWord_encodeRegs {base : Word} {mk : Option Reg → Option Reg → Instr} (sr dr : Option Reg)
    (h : ∀ w : Word, w.extractLsb' 11 5 = base.extractLsb' 11 5 → w.extractLsb' 6 5 = base.extractLsb' 6 5 →
      w.extractLsb' 6 2 = base.extractLsb' 6 2 → w.extractLsb' 0 3 = codeOfReg dr →
      decodeWord w = .ok (mk (srField w) (drField w)))
    (hb : base.extractLsb' 0 6 = 0) : decodeWord (encodeRegs base sr dr) = .ok (mk sr dr) := by
  rw [h _ (by simp [encodeRegs, BitVec.extractLsb'_or]) (by simp [encodeRegs, BitVec.extractLsb'_or])
    (by simp [encodeRegs, BitVec.extractLsb'_or])
    (by simp [encodeRegs, BitVec.extractLsb'_or, field_of_low_zero hb]), srField_encodeRegs sr dr hb, drField_encodeRegs sr dr hb]

theorem decodeWord_encodeLevel {base : Word} {mk : BitVec 4 → StsOrReg → Instr} (n : BitVec 4) (dr : StsOrReg)
    (h : ∀ w : Word, w.extractLsb' 11 5 = base.extractLsb' 11 5 → w.extractLsb' 8 3 = base.extractLsb' 8 3 →
      w.extractLsb' 7 4 = base.extractLsb' 7 4 → w.getLsbD 7 = base.getLsbD 7 → decodeWord w = .ok (mk (level4 w) (drOrSts w)))
    (hb : base.extractLsb' 0 7 = 0) : decodeWord (encodeLevel base n dr) = .ok (mk n dr) := by
  rw [h _ (by simp [encodeLevel, BitVec.extractLsb'_or]) (by simp [encodeLevel, BitVec.extractLsb'_or])
    (by simp [encodeLevel, BitVec.extractLsb'_or]) (by simp [encodeLevel, getElem_atBit]),
    level4_encodeLevel n dr hb, drOrSts_encodeLevel n dr hb]

theorem decodeWord_encodeDelta {base : Word} {mk : BitVec 3 → Instr} (d : BitVec 3)
    (h : ∀ w : Word, w.extractLsb' 11 5 = base.extractLsb' 11 5 → w.extractLsb' 6 5 = base.extractLsb' 6 5 →
      w.extractLsb' 6 2 = base.extractLsb' 6 2 → w.extractLsb' 0 3 = base.extractLsb' 0 3 →
      decodeWord w = .ok (mk (deltaField w)))
    (hb : base.extractLsb' 3 3 = 0) : decodeWord (encodeDelta base d) = .ok (mk d) := by
  rw [h _ (by simp [encodeDelta, BitVec.extractLsb'_or]) (by simp [encodeDelta, BitVec.extractLsb'_or])
    (by simp [encodeDelta, BitVec.extractLsb'_or]) (by simp [encodeDelta, BitVec.extractLsb'_or]),
    deltaField_encodeDelta d hb]

theorem decodeWord_encodeShift {base : Word} {mk : ShiftType → BitVec 6 → Instr} (t : ShiftType) (n : BitVec 6)
    (h : ∀ w : Word, w.extractLsb' 11 5 = base.extractLsb' 11 5 → w.extractLsb' 7 2 = base.extractLsb' 7 2 →
      w.getLsbD 6 = false → decodeWord w = .ok (mk (shiftType w) (w.extractLsb' 0 6)))
    (h6 : base.extractLsb' 0 7 = 0) (h9 : base.extractLsb' 9 2 = 0) : decodeWord (encodeShift base t n) = .ok (mk t n) := by
  rw [h _ (by simp [encodeShift, BitVec.extractLsb'_or]) (by simp [encodeShift, BitVec.extractLsb'_or])
    (by simp [encodeShift, getElem_atBit, getElem_of_low_zero h6]), shiftType_encodeShift t n h9]
  simp [encodeShift, BitVec.extractLsb'_or, field_of_low_zero h6]

theorem decodeWord_encodeRop {base : Word} {mk : Bool → Bool → Option Reg → Option Reg → Instr} (cm1 cld : Bool)
    (sr dr : Option Reg)
    (h : ∀ w : Word, w.extractLsb' 11 5 = base.extractLsb' 11 5 → w.extractLsb' 8 3 = base.extractLsb' 8 3 →
      decodeWord w = .ok (mk (w.getLsbD 7) (w.getLsbD 6) (srField w) (drField w)))
    (hb : base.extractLsb' 0 8 = 0) : decodeWord (encodeRop base cm1 cld sr dr) = .ok (mk cm1 cld sr dr) := by
  rw [h _ (by simp [encodeRop, encodeRegs, flagBit, BitVec.extractLsb'_or])
    (by simp [encodeRop, encodeRegs, flagBit, BitVec.extractLsb'_or])]
  simp [encodeRop, encodeRegs, flagBit, srField, drField, BitVec.extractLsb'_or, getElem_atBit, field_of_low_zero hb,
    getElem_of_low_zero hb]

theorem decodeWord_encodeSkp (c : SkpCond) (sr dr : Option Reg) :
    decodeWord (encode (.skp c sr dr)) = .ok (.skp c sr dr) := by
  have h11 : (encode (.skp c sr dr)).extractLsb' 11 5 = 24#5 := by simp [encode, encodeRegs, BitVec.extractLsb'_or]
  have h8 : (encode (.skp c sr dr)).extractLsb' 8 3 = codeOfCond c := by simp [encode, encodeRegs, BitVec.extractLsb'_or]
  have h6 : (encode (.skp c sr dr)).extractLsb' 6 2 = 0#2 := by simp [encode, encodeRegs, BitVec.extractLsb'_or]
  have h3 : (encode (.skp c sr dr)).extractLsb' 3 3 = codeOfReg sr := by
    simp [encode, encodeRegs, BitVec.extractLsb'_or]
  have h0 : (encode (.skp c sr dr)).extractLsb' 0 3 = codeOfReg dr := by
    simp [encode, encodeRegs, BitVec.extractLsb'_or]
  have hd : decodeSkpOrExtended (encode (.skp c sr dr)) = .ok (.skp c sr dr) := by
    simp [decodeSkpOrExtended, h6, skpCond_code _ c h8, srField, drField, h3, h0]
  rw [decodeWord, h11, ← hd]
  rfl

/-- The compound mnemonics of RADD take the words that its well-formed terms leave (R179 to R184). -/
theorem decodeRadd_of_wellFormed {w : Word}
    (h : raddWellFormed (w.getLsbD 9) (w.getLsbD 8) (w.getLsbD 7) (w.getLsbD 6) (srField w) = true) :
    decodeRadd w = .radd (w.getLsbD 9) (w.getLsbD 8) (w.getLsbD 7) (w.getLsbD 6) (srField w) (drField w) := by
  unfold decodeRadd
  split <;> simp_all [raddWellFormed]

/-- Bits 15-10 of the words of RADD and its compound mnemonics. -/
theorem decodeWord_of_radd {w : Word} (h11 : w.extractLsb' 11 5 = 25) (h10 : w.getLsbD 10 = true) :
    decodeWord w = .ok (decodeRadd w) := by
  have codes : ∀ c : BitVec 3, c.getLsbD 2 = true → c = 4 ∨ c = 5 ∨ c = 6 ∨ c = 7 := by decide
  have hrop : decodeRop w = decodeRadd w := by
    rcases codes (w.extractLsb' 8 3) (by simpa using h10) with h8 | h8 | h8 | h8 <;> rw [decodeRop, h8] <;> rfl
  rw [decodeWord, h11, ← hrop]
  rfl

theorem decodeWord_encodeRadd {adc ad1 cm1 cld : Bool} {sr : Option Reg} (dr : Option Reg)
    (h : raddWellFormed adc ad1 cm1 cld sr = true) :
    decodeWord (encode (.radd adc ad1 cm1 cld sr dr)) = .ok (.radd adc ad1 cm1 cld sr dr) := by
  have fields : (encode (.radd adc ad1 cm1 cld sr dr)).getLsbD 9 = adc
      ∧ (encode (.radd adc ad1 cm1 cld sr dr)).getLsbD 8 = ad1 ∧ (encode (.radd adc ad1 cm1 cld sr dr)).getLsbD 7 = cm1
      ∧ (encode (.radd adc ad1 cm1 cld sr dr)).getLsbD 6 = cld ∧ srField (encode (.radd adc ad1 cm1 cld sr dr)) = sr
      ∧ drField (encode (.radd adc ad1 cm1 cld sr dr)) = dr := by
    simp [encode, encodeRop, encodeRegs, flagBit, srField, drField, BitVec.extractLsb'_or, getElem_atBit]
  obtain ⟨h9, h8, h7, h6, hsr, hdr⟩ := fields
  rw [decodeWord_of_radd (by simp [encode, encodeRop, encodeRegs, flagBit, BitVec.extractLsb'_or])
    (by simp [encode, encodeRop, encodeRegs, flagBit, getElem_atBit]), decodeRadd_of_wellFormed (by simp_all),
    h9, h8, h7, h6, hsr, hdr]

/-- A compound mnemonic of RADD in its registers: bits 15-6 give the flags. -/
theorem decodeWord_encodeRaddRegs {base : Word} (sr dr : Option Reg) (h11 : base.extractLsb' 11 5 = 25)
    (h10 : base.getLsbD 10 = true) (hb : base.extractLsb' 0 6 = 0) :
    ∃ w, decodeWord (encodeRegs base sr dr) = .ok (decodeRadd w) ∧ w.getLsbD 9 = base.getLsbD 9
      ∧ w.getLsbD 8 = base.getLsbD 8 ∧ w.getLsbD 7 = base.getLsbD 7 ∧ w.getLsbD 6 = base.getLsbD 6
      ∧ srField w = sr ∧ drField w = dr := by
  refine ⟨_, decodeWord_of_radd ?_ ?_, ?_, ?_, ?_, ?_, srField_encodeRegs sr dr hb, drField_encodeRegs sr dr hb⟩
  · simpa [encodeRegs, BitVec.extractLsb'_or] using h11
  · simpa [encodeRegs, getElem_atBit] using h10
  all_goals simp [encodeRegs, getElem_atBit]

/-- Settles O1, format by format: each format keeps the fields that the decoder reads. -/
theorem decodeOfEncode : Obligations.DecodeOfEncode := by
  intro i hi
  cases i with
  | stz m | sta m | stt m | stx m | std m | ldd m | stf m | ldf m | min m | lda m | ldt m | ldx m | add m | sub m | and m
  | ora m | fad m | fsb m | fmu m | fdv m | mpy m | jmp m | jpl m =>
    exact decodeWord_encodeMem m (fun w h11 => by rw [decodeWord, h11]; rfl) rfl
  | jap n | jan n | jaz n | jaf n | jpc n | jnc n | jxz n | jxn n =>
    exact decodeWord_encodeByte n (fun w h11 h8 => by rw [decodeWord, h11, decodeConditionalJump, h8]; rfl) rfl
  | sab n | saa n | sat n | sax n | aab n | aaa n | aat n | aax n =>
    exact decodeWord_encodeByte n (fun w h11 h8 => by rw [decodeWord, h11, decodeArgument, h8]; rfl) rfl
  | wait n | nlz n | dnz n | mon n =>
    exact decodeWord_encodeByte n (fun w h11 h8 => by rw [decodeWord, h11, decodeSystem, h8]; rfl) rfl
  | skp c sr dr => exact decodeWord_encodeSkp c sr dr
  | addd | subd | comd | tset | pack | upack | shde | rdus | bfill | movb | movbf | versn | init | entr | leave | eleav
  | setpt | clept | clnreent | chreentpages | clepu | wglob | rglob | inspl | rempl | cnrek | clpt | enpt | rept | lbit
  | lbitp | sbit | sbitp | lbytp | sbytp | tsetp | rdusp | lbyt | sbyt | mix3 | lwcs | identPl10 | identPl11 | identPl12
  | identPl13 | exit | opcom | iof | ion | pof | piof | sex | rex | pon | pion | ioxt | exam | depo => rfl
  | movew kind => cases kind <;> rfl
  | exr sr =>
    exact decodeWord_encodeRegs (mk := fun sr _ => .exr sr) sr none (fun w h11 h6 hx h0 => by
      rw [decodeWord, h11, decodeSkpOrExtended, hx, decodeExtended, h6]
      exact if_pos h0) rfl
  | rdiv sr =>
    exact decodeWord_encodeRegs (mk := fun sr _ => .rdiv sr) sr none (fun w h11 h6 hx h0 => by
      rw [decodeWord, h11, decodeSkpOrExtended, hx, decodeExtended, h6]
      exact if_pos h0) rfl
  | rmpy sr dr =>
    exact decodeWord_encodeRegs sr dr (fun w h11 h6 hx h0 => by
      rw [decodeWord, h11, decodeSkpOrExtended, hx, decodeExtended, h6]; rfl) rfl
  | lasb d | sasb d | lacb d | sacb d | lxsb d | lxcb d | szsb d | szcb d =>
    exact decodeWord_encodeDelta d (fun w h11 h6 hx h0 => by
      rw [decodeWord, h11, decodeSkpOrExtended, hx, decodeExtended, h6, decodeTableAccess, h0]; rfl) rfl
  | ldatx d | ldxtx d | lddtx d | ldbtx d | statx d | stztx d | stdtx d =>
    exact decodeWord_encodeDelta d (fun w h11 h6 hx h0 => by
      rw [decodeWord, h11, decodeSkpOrExtended, hx, decodeExtended, h6, decodePhysical, h0]; rfl) rfl
  | swap cm1 cld sr dr | rand cm1 cld sr dr | rexo cm1 cld sr dr | rora cm1 cld sr dr =>
    exact decodeWord_encodeRop cm1 cld sr dr (fun w h11 h8 => by rw [decodeWord, h11, decodeRop, h8]; rfl) rfl
  | radd adc ad1 cm1 cld sr dr => exact decodeWord_encodeRadd dr hi
  | copy sr dr =>
    obtain ⟨w, hd, h9, h8, h7, h6, hsr, hdr⟩ := decodeWord_encodeRaddRegs (base := 0o146100) sr dr rfl rfl rfl
    rw [encode, hd, decodeRadd, h9, h8, h7, h6, hsr, hdr]
    rcases sr with _ | sr
    · cases hi
    · cases sr <;> simp_all [Instr.wellFormed, copyWellFormed]
  | rclr dr =>
    obtain ⟨w, hd, h9, h8, h7, h6, hsr, hdr⟩ := decodeWord_encodeRaddRegs (base := 0o146100) none dr rfl rfl rfl
    rw [encode, hd, decodeRadd, h9, h8, h7, h6, hsr, hdr]
    rfl
  | rdcr dr =>
    obtain ⟨w, hd, h9, h8, h7, h6, hsr, hdr⟩ := decodeWord_encodeRaddRegs (base := 0o146200) none dr rfl rfl rfl
    rw [encode, hd, decodeRadd, h9, h8, h7, h6, hsr, hdr]
    rfl
  | rinc dr =>
    obtain ⟨w, hd, h9, h8, h7, h6, hsr, hdr⟩ := decodeWord_encodeRaddRegs (base := 0o146400) none dr rfl rfl rfl
    rw [encode, hd, decodeRadd, h9, h8, h7, h6, hsr, hdr]
    rfl
  | rsub sr dr =>
    obtain ⟨w, hd, h9, h8, h7, h6, hsr, hdr⟩ := decodeWord_encodeRaddRegs (base := 0o146600) sr dr rfl rfl rfl
    rw [encode, hd, decodeRadd, h9, h8, h7, h6, hsr, hdr]
    rfl
  | tra r | trr r | mcl r | mst r =>
    simp [encode, decodeWord, decodeSystem, decodeInternalRegister, BitVec.extractLsb'_or]
  | srb l | lrb l =>
    simp [encode, decodeWord, decodeSystem, decodeRegisterBlock, level4, BitVec.extractLsb'_or, getElem_atBit]
  | irw l dr | irr l dr =>
    exact decodeWord_encodeLevel l dr (fun w h11 h8 _ h7 => by rw [decodeWord, h11, decodeSystem, h8, h7]; rfl) rfl
  | sht t n | shd t n | sha t n | sad t n =>
    exact decodeWord_encodeShift t n (fun w h11 h7 h6 => by rw [decodeWord, h11, decodeShift, h6, h7]; rfl) rfl rfl
  | iox a => simp [encode, decodeWord, BitVec.extractLsb'_or]
  | bsetZro n dr | bsetOne n dr | bsetBcm n dr | bsetBac n dr | bskpZro n dr | bskpOne n dr | bskpBcm n dr
  | bskpBac n dr | bstc n dr | bsta n dr | bldc n dr | blda n dr | banc n dr | band n dr | borc n dr | bora n dr =>
    exact decodeWord_encodeLevel n dr (fun w h11 _ h7 _ => by rw [decodeWord, h11, decodeBit, h7]; rfl) rfl


/-! ### The word of a decoded instruction -/

/-- The word is the one of a well-formed instruction. -/
def IsWordOf (w : Word) (i : Instr) : Prop := i.wellFormed = true ∧ encode i = w

theorem isWordOf_decodeBit {w : Word} (h11 : (w.extractLsb' 11 5).toNat = 31) : IsWordOf w (decodeBit w) := by
  have bound := (w.extractLsb' 7 4).isLt
  rw [toNat_extractLsb'] at h11
  unfold decodeBit
  interval_cases h7 : (w.extractLsb' 7 4).toNat
  all_goals
    rw [toNat_extractLsb'] at h7
    refine ⟨rfl, encodeLevel_fields (BitVec.eq_of_toNat_eq ?_) rfl⟩
    simp
    omega

theorem isWordOf_decodeArgument {w : Word} (h11 : (w.extractLsb' 11 5).toNat = 30) : IsWordOf w (decodeArgument w) := by
  have bound := (w.extractLsb' 8 3).isLt
  unfold decodeArgument
  interval_cases h8 : (w.extractLsb' 8 3).toNat
  all_goals exact ⟨rfl, encodeByte_byteField (high8_of_parts h11 h8 rfl) rfl⟩

theorem isWordOf_decodeConditionalJump {w : Word} (h11 : (w.extractLsb' 11 5).toNat = 22) :
    IsWordOf w (decodeConditionalJump w) := by
  have bound := (w.extractLsb' 8 3).isLt
  unfold decodeConditionalJump
  interval_cases h8 : (w.extractLsb' 8 3).toNat
  all_goals exact ⟨rfl, encodeByte_byteField (high8_of_parts h11 h8 rfl) rfl⟩

theorem isWordOf_decodeShift {w : Word} {i : Instr} (h11 : (w.extractLsb' 11 5).toNat = 27)
    (hd : decodeShift w = .ok i) : IsWordOf w i := by
  have bound := (w.extractLsb' 7 2).isLt
  unfold decodeShift at hd
  split at hd
  · cases hd
  next h6 =>
  have h6 : (w.extractLsb' 6 1).toNat = 0 := by rw [← ofBool_getElem w (by decide)]; simpa using h6
  interval_cases h7 : (w.extractLsb' 7 2).toNat
  all_goals
    cases hd
    rw [toNat_extractLsb'] at h6 h7
    refine ⟨rfl, encodeShift_fields (BitVec.eq_of_toNat_eq h11) (BitVec.eq_of_toNat_eq ?_) rfl rfl⟩
    simp
    omega

/-- A word with no field but the code of its instruction in bits 5-0, in bits 10-6 and in bits 15-11 (R141). -/
theorem isWordOf_of_code {w : Word} {i : Instr} {a b c : Nat} (h11 : (w.extractLsb' 11 5).toNat = a)
    (h6 : (w.extractLsb' 6 5).toNat = b) (h0 : (w.extractLsb' 0 6).toNat = c)
    (h : (decide (i.wellFormed = true) && decide ((encode i).toNat = 2048 * a + 64 * b + c)) = true) : IsWordOf w i := by
  simp only [Bool.and_eq_true, decide_eq_true_eq] at h
  refine ⟨h.1, BitVec.eq_of_toNat_eq ?_⟩
  rw [toNat_extractLsb'] at h11 h6 h0
  omega

/-- The groups of the extended space whose words have no field but a code in bits 5-0 (R141). -/
theorem isWordOf_of_fixed {w : Word} {i : Instr} (h11 : (w.extractLsb' 11 5).toNat = 24)
    (hd : (w.extractLsb' 6 5).toNat = 0o01 ∧ decodeDecimalStack w = .ok i
      ∨ (w.extractLsb' 6 5).toNat = 0o03 ∧ decodePageTable w = .ok i
      ∨ (w.extractLsb' 6 5).toNat = 0o05 ∧ decodeSintran w = .ok i
      ∨ (w.extractLsb' 6 5).toNat = 0o31 ∧ decodeMovew w = .ok i
      ∨ (w.extractLsb' 6 5).toNat = 0o36 ∧ decodeIdent w = .ok i) : IsWordOf w i := by
  rcases hd with ⟨h6, hd⟩ | ⟨h6, hd⟩ | ⟨h6, hd⟩ | ⟨h6, hd⟩ | ⟨h6, hd⟩
  · unfold decodeDecimalStack at hd; split at hd <;> cases hd
    all_goals exact isWordOf_of_code h11 h6 ‹_› rfl
  · unfold decodePageTable at hd; split at hd <;> cases hd
    all_goals exact isWordOf_of_code h11 h6 ‹_› rfl
  · unfold decodeSintran at hd; split at hd <;> cases hd
    all_goals exact isWordOf_of_code h11 h6 ‹_› rfl
  · unfold decodeMovew at hd; split at hd <;> cases hd
    all_goals exact isWordOf_of_code h11 h6 ‹_› rfl
  · unfold decodeIdent at hd; split at hd <;> cases hd
    all_goals exact isWordOf_of_code h11 h6 ‹_› rfl

theorem isWordOf_decodeTableAccess {w : Word} {i : Instr} (h6 : w.extractLsb' 6 10 = 0o1407)
    (hd : decodeTableAccess w = .ok i) : IsWordOf w i := by
  have bound := (w.extractLsb' 0 3).isLt
  unfold decodeTableAccess at hd
  interval_cases h0 : (w.extractLsb' 0 3).toNat
  all_goals
    cases hd
    exact ⟨rfl, encodeDelta_deltaField h6 (BitVec.eq_of_toNat_eq h0) rfl⟩

theorem isWordOf_decodePhysical {w : Word} {i : Instr} (h6 : w.extractLsb' 6 10 = 0o1433)
    (hd : decodePhysical w = .ok i) : IsWordOf w i := by
  unfold decodePhysical at hd
  split at hd <;> cases hd
  all_goals
    rename_i h0
    exact ⟨rfl, encodeDelta_deltaField h6 (BitVec.eq_of_toNat_eq h0) rfl⟩

theorem eq_of_onlyLow6Zero {w : Word} {i j : Instr} (hd : onlyLow6Zero w i = .ok j) :
    i = j ∧ w.extractLsb' 0 6 = 0 := by
  unfold onlyLow6Zero at hd
  split at hd <;> cases hd
  exact ⟨rfl, ‹_›⟩

theorem eq_of_onlyLow3Zero {w : Word} {i j : Instr} (hd : onlyLow3Zero w i = .ok j) :
    i = j ∧ w.extractLsb' 0 3 = 0 := by
  unfold onlyLow3Zero at hd
  split at hd <;> cases hd
  exact ⟨rfl, ‹_›⟩

theorem drField_eq_none {w : Word} (h : w.extractLsb' 0 3 = 0) : drField w = none := by
  rw [drField, h]; rfl

theorem isWordOf_decodeExtended {w : Word} {i : Instr} (h11 : (w.extractLsb' 11 5).toNat = 24)
    (hd : decodeExtended w = .ok i) : IsWordOf w i := by
  unfold decodeExtended at hd
  split at hd <;> rename_i h6
  · exact isWordOf_of_fixed h11 (.inl ⟨h6, hd⟩)
  · exact isWordOf_of_fixed h11 (.inr (.inl ⟨h6, hd⟩))
  · exact isWordOf_of_fixed h11 (.inr (.inr (.inl ⟨h6, hd⟩)))
  · obtain ⟨rfl, h0⟩ := eq_of_onlyLow3Zero hd
    have := encodeRegs_fields (base := 0o140600) (high10_of_parts h11 h6 rfl) rfl
    rw [drField_eq_none h0] at this
    exact ⟨rfl, this⟩
  · exact isWordOf_decodeTableAccess (high10_of_parts h11 h6 rfl) hd
  · cases hd
    exact ⟨rfl, encodeRegs_fields (high10_of_parts h11 h6 rfl) rfl⟩
  · obtain ⟨rfl, h0⟩ := eq_of_onlyLow3Zero hd
    have := encodeRegs_fields (base := 0o141600) (high10_of_parts h11 h6 rfl) rfl
    rw [drField_eq_none h0] at this
    exact ⟨rfl, this⟩
  · obtain ⟨rfl, h0⟩ := eq_of_onlyLow6Zero hd
    exact isWordOf_of_code h11 h6 (congrArg _ h0) rfl
  · obtain ⟨rfl, h0⟩ := eq_of_onlyLow6Zero hd
    exact isWordOf_of_code h11 h6 (congrArg _ h0) rfl
  · exact isWordOf_of_fixed h11 (.inr (.inr (.inr (.inl ⟨h6, hd⟩))))
  · obtain ⟨rfl, h0⟩ := eq_of_onlyLow6Zero hd
    exact isWordOf_of_code h11 h6 (congrArg _ h0) rfl
  · exact isWordOf_decodePhysical (high10_of_parts h11 h6 rfl) hd
  · obtain ⟨rfl, h0⟩ := eq_of_onlyLow6Zero hd
    exact isWordOf_of_code h11 h6 (congrArg _ h0) rfl
  · exact isWordOf_of_fixed h11 (.inr (.inr (.inr (.inr ⟨h6, hd⟩))))
  · cases hd

theorem isWordOf_decodeSkpOrExtended {w : Word} {i : Instr} (h11 : (w.extractLsb' 11 5).toNat = 24)
    (hd : decodeSkpOrExtended w = .ok i) : IsWordOf w i := by
  unfold decodeSkpOrExtended at hd
  split at hd
  · next h6 =>
    cases hd
    exact ⟨rfl, encodeSkp_fields (BitVec.eq_of_toNat_eq h11) h6⟩
  · exact isWordOf_decodeExtended h11 hd

/-- The flags of RADD are a part of the code that the registers do not touch. -/
theorem encode_radd (adc ad1 cm1 cld : Bool) (sr dr : Option Reg) :
    encode (.radd adc ad1 cm1 cld sr dr)
      = encodeRegs (0o146000 ||| flagBit cm1 7 ||| flagBit cld 6 ||| flagBit adc 9 ||| flagBit ad1 8) sr dr := by
  simp only [encode, encodeRop, encodeRegs]
  ac_rfl

/-- RADD and its compound mnemonics stand for the same words (R179 to R184). -/
theorem isWordOf_decodeRadd {w : Word} (h : w.extractLsb' 10 6 = 51) : IsWordOf w (decodeRadd w) := by
  have hw := encodeRadd_fields h
  rw [encode_radd] at hw
  unfold decodeRadd
  split
  next h9 h8 h7 h6 hsr => rw [h9, h8, h7, h6, hsr] at hw; exact ⟨rfl, hw⟩
  next h9 h8 h7 h6 hsr =>
    rw [h9, h8, h7, h6, hsr] at hw
    split
    next hdr => rw [hdr] at hw; exact ⟨rfl, hw⟩
    next hdr => exact ⟨by simp [Instr.wellFormed, copyWellFormed, hdr], hw⟩
  next h9 h8 h7 h6 hl hnone =>
    rw [h9, h8, h7, h6] at hw
    refine ⟨?_, hw⟩
    simp_all [Instr.wellFormed, copyWellFormed]
  next h9 h8 h7 h6 hsr => rw [h9, h8, h7, h6, hsr] at hw; exact ⟨rfl, hw⟩
  next h9 h8 h7 h6 hsr => rw [h9, h8, h7, h6, hsr] at hw; exact ⟨rfl, hw⟩
  next h9 h8 h7 h6 => rw [h9, h8, h7, h6] at hw; exact ⟨rfl, hw⟩
  next =>
    rw [← encode_radd] at hw
    refine ⟨?_, hw⟩
    grind [Instr.wellFormed, raddWellFormed]

theorem isWordOf_decodeRop {w : Word} (h11 : (w.extractLsb' 11 5).toNat = 25) : IsWordOf w (decodeRop w) := by
  have bound := (w.extractLsb' 8 3).isLt
  unfold decodeRop
  interval_cases h8 : (w.extractLsb' 8 3).toNat
  iterate 4
    next => exact ⟨rfl, encodeRop_fields (high8_of_parts h11 h8 rfl) rfl⟩
  all_goals
    rw [toNat_extractLsb'] at h11 h8
    refine isWordOf_decodeRadd (BitVec.eq_of_toNat_eq ?_)
    simp
    omega

theorem isWordOf_decodeInternalRegister {w : Word} {i : Instr} (h8 : w.extractLsb' 8 8 = 0o320)
    (hd : decodeInternalRegister w = .ok i) : IsWordOf w i := by
  have bound := (w.extractLsb' 6 2).isLt
  unfold decodeInternalRegister at hd
  split at hd
  · next h4 =>
    interval_cases h6 : (w.extractLsb' 6 2).toNat
    all_goals
      cases hd
      have h6 := eq_ofNat_of_toNat h6
      refine ⟨rfl, eq_of_fields [(0, 4), (4, 2), (6, 2), (8, 8)] (by decide) ?_⟩
      simp [encode, BitVec.extractLsb'_or, h4, h6, h8]
  · cases hd

theorem isWordOf_decodeControl {w : Word} {i : Instr} (h8 : (w.extractLsb' 8 8).toNat = 0o321)
    (hd : decodeControl w = .ok i) : IsWordOf w i := by
  have word {c : Nat} (h0 : (byteField w).toNat = c) (he : (encode i).toNat = 256 * 0o321 + c) : encode i = w := by
    rw [byteField, toNat_extractLsb'] at h0
    rw [toNat_extractLsb'] at h8
    exact BitVec.eq_of_toNat_eq (by omega)
  unfold decodeControl at hd
  split at hd <;> cases hd
  all_goals exact ⟨rfl, word ‹_› rfl⟩

theorem isWordOf_decodeRegisterBlock {w : Word} {i : Instr} (h8 : w.extractLsb' 8 8 = 0o325)
    (hd : decodeRegisterBlock w = .ok i) : IsWordOf w i := by
  unfold decodeRegisterBlock at hd
  split at hd <;> cases hd
  all_goals
    next h7 h0 =>
    have h7 := (ofBool_getElem w (i := 7) (by decide)).symm.trans (congrArg BitVec.ofBool h7)
    have h0 := eq_ofNat_of_toNat h0
    refine ⟨rfl, eq_of_fields [(0, 3), (3, 4), (7, 1), (8, 8)] (by decide) ?_⟩
    simp [encode, level4, BitVec.extractLsb'_or, h0, h7, h8]

theorem isWordOf_decodeSystem {w : Word} {i : Instr} (h11 : (w.extractLsb' 11 5).toNat = 26)
    (hd : decodeSystem w = .ok i) : IsWordOf w i := by
  have bound := (w.extractLsb' 8 3).isLt
  unfold decodeSystem at hd
  interval_cases h8 : (w.extractLsb' 8 3).toNat
  · exact isWordOf_decodeInternalRegister (high8_of_parts h11 h8 rfl) hd
  · exact isWordOf_decodeControl (congrArg _ (high8_of_parts (v := 0o321) h11 h8 rfl)) hd
  · cases hd; exact ⟨rfl, encodeByte_byteField (high8_of_parts h11 h8 rfl) rfl⟩
  · cases hd; exact ⟨rfl, encodeByte_byteField (high8_of_parts h11 h8 rfl) rfl⟩
  · cases hd; exact ⟨rfl, encodeByte_byteField (high8_of_parts h11 h8 rfl) rfl⟩
  · exact isWordOf_decodeRegisterBlock (high8_of_parts h11 h8 rfl) hd
  · cases hd; exact ⟨rfl, encodeByte_byteField (high8_of_parts h11 h8 rfl) rfl⟩
  · rw [toNat_extractLsb'] at h11 h8
    have level {v : BitVec 9} {b : Nat} (h7 : (w.extractLsb' 7 1).toNat = b) (hv : v.toNat = 0o656 + b) :
        w.extractLsb' 7 9 = v := by
      rw [toNat_extractLsb'] at h7
      refine BitVec.eq_of_toNat_eq ?_
      rw [toNat_extractLsb']
      omega
    change (if w.getLsbD 7 then Except.ok (Instr.irr (level4 w) (drOrSts w))
      else .ok (.irw (level4 w) (drOrSts w))) = _ at hd
    split at hd
    · next h7 =>
      cases hd
      exact ⟨rfl, encodeLevel_fields (level (b := 1) (by rw [← ofBool_getElem w (by decide)]; simpa using h7) rfl) rfl⟩
    · next h7 =>
      cases hd
      exact ⟨rfl, encodeLevel_fields (level (b := 0) (by rw [← ofBool_getElem w (by decide)]; simpa using h7) rfl) rfl⟩

theorem isWordOf_decodeWord {w : Word} {i : Instr} (hd : decodeWord w = .ok i) : IsWordOf w i := by
  unfold decodeWord at hd
  split at hd
  case h_23 => cases hd; exact isWordOf_decodeConditionalJump ‹_›
  case h_25 => exact isWordOf_decodeSkpOrExtended ‹_› hd
  case h_26 => cases hd; exact isWordOf_decodeRop ‹_›
  case h_27 => exact isWordOf_decodeSystem ‹_› hd
  case h_28 => exact isWordOf_decodeShift ‹_› hd
  case h_29 =>
    cases hd
    next h11 =>
    refine ⟨rfl, eq_of_fields [(0, 11), (11, 5)] (by decide) ?_⟩
    simp [encode, BitVec.extractLsb'_or, BitVec.eq_of_toNat_eq (y := 29#5) h11]
  case h_30 => cases hd; exact isWordOf_decodeArgument ‹_›
  case h_31 => cases hd; exact isWordOf_decodeBit ‹_›
  case h_32 => cases hd
  all_goals
    cases hd
    exact ⟨rfl, encodeMem_memField (BitVec.eq_of_toNat_eq ‹_›) rfl⟩

/-- Settles O2, by the branches of the decoder: each reads all fields of the formats of its instructions. -/
theorem encodeOfDecode : Obligations.EncodeOfDecode := fun _ _ hd => isWordOf_decodeWord hd

/-- Settles O3, by evaluating the decoder on the eleven words. -/
theorem printedWords : Obligations.PrintedWords := by
  unfold Obligations.PrintedWords
  decide

end Sys2Proof
end

section
/-! PROOF. The machine between two instructions (O4, O5, O7 to O11): reset, the step, level selection, internal interrupts and
the privilege check. -/

namespace Sys2Proof.Machine

/-! ### Reset -/

theorem getLsbD_physAddr (bank : Byte) (offset : Word) (i : Nat) :
    (physAddr bank offset).getLsbD i = if i < 16 then offset.getLsbD i else bank.getLsbD (i - 16) :=
  BitVec.getLsbD_append

@[simp] theorem bankOf_physAddr (bank : Byte) (offset : Word) : bankOf (physAddr bank offset) = bank := by
  ext i hi
  simp [bankOf, getLsbD_physAddr, hi, BitVec.getLsbD_eq_getElem]

@[simp] theorem offsetOf_physAddr (bank : Byte) (offset : Word) : offsetOf (physAddr bank offset) = offset := by
  ext i hi
  simp [offsetOf, getLsbD_physAddr, hi, BitVec.getLsbD_eq_getElem]

/-- At reset every physical address holds memory (D1; log 5). -/
theorem memExists_reset (pa : PhysAddr) : Config.memExists State.reset.cfg pa = true := by
  have := pa.isLt
  simp [State.reset, State.resetWith, resetConfig, Config.memExists]
  omega

/-- Settles O4: the fields of the reset state, and its accesses, which paging off sends to memory. -/
theorem resetValues : Obligations.ResetValues := by
  refine ⟨rfl, rfl, rfl, rfl, rfl, rfl, rfl, rfl, rfl, fun l => ?_, rfl, fun kind tbl va hva => ?_⟩
  · simp [State.reset, State.resetWith]
  · have hphys : resolvePhys kind (physAddr 0 va) State.reset = resolveMemory kind (physAddr 0 va) State.reset := by
      simp [resolvePhys, hva]
    have hoff : State.reset.poni = false := rfl
    rw [resolve, if_pos hoff, hphys, resolveMemory, if_pos (memExists_reset _)]
    rfl

/-- Settles O5. -/
theorem resetInv : Obligations.ResetInv := ⟨⟨rfl, rfl⟩, fun h => Bool.noConfusion h, rfl⟩

/-! ### The step -/

/-- Settles O7: the step of a running machine is `withFetched`, the decoding of the word fetched. -/
theorem stepRunsDecoded : Obligations.StepRunsDecoded := by
  intro s u w hrun hfetch
  refine ⟨fetchWord_accessed hfetch, fun i hi => ?_, fun e he => ?_⟩
  · simp [step, hrun, withFetched, hfetch, hi]
  · simp [step, hrun, withFetched, hfetch, he, illegalInstruction]

/-- Settles O8: the fetch comes before the decoding, the run state before the fetch. -/
theorem stepStops : Obligations.StepStops := by
  refine ⟨fun s o hrun hfetch => ?_, fun s => ⟨fun hrun => ?_, fun hrun => ?_⟩⟩
  · simp [step, hrun, withFetched, hfetch]
  · simp [step, hrun]
  · simp [step, hrun]

/-! ### Level selection -/

theorem toNat_topLevel (s : State) : s.topLevel.toNat = highestBelow s.requests 16 := by
  have := highestBelow_le s.requests 16
  rw [State.topLevel, BitVec.toNat_ofNat]
  omega

theorem highestBelow_zero (n : Nat) : highestBelow 0 n = 0 := by
  induction n with
  | zero => rfl
  | succ n ih => rw [highestBelow, ih]; simp

/-- Selection of the level that already runs changes nothing. -/
theorem selectLevel_of_settled {s : State} (h : s.settled) : s.selectLevel = s := by
  unfold State.selectLevel
  split
  · next hc => simp_all [State.settled]
  · rfl

theorem pil_selectLevel {s : State} (h : s.ioni = true) : s.selectLevel.pil = s.topLevel := by
  have := s.settled_selectLevel (by simpa using h)
  rw [this]
  unfold State.selectLevel
  split <;> rfl

/-- Settles O9: the level selected is the highest that requests, which `highestBelow_spec` says of `topLevel`. -/
theorem levelSelection : Obligations.LevelSelection := by
  refine fun s => ⟨fun hoff => by simp [State.selectLevel, hoff], fun hon => ?_⟩
  rw [pil_selectLevel hon]
  refine ⟨fun n hn => ?_, fun hnone => ?_, fun hsame => ?_, fun hother => ?_⟩
  · have spec := highestBelow_spec s.requests 16 n.isLt hn
    rw [← toNat_topLevel] at spec
    exact spec
  · refine BitVec.eq_of_toNat_eq ?_
    rw [toNat_topLevel, State.requests, hnone, highestBelow_zero]
    rfl
  · exact selectLevel_of_settled fun _ => hsame.symm
  · simp [State.selectLevel, hon, hother, State.changeLevel]

/-! ### Internal interrupts -/

/-- The highest bit below a place depends on the bits below it alone. -/
theorem highestBelow_congr {r r' : Word} : ∀ {n : Nat}, (∀ i < n, r'.getLsbD i = r.getLsbD i) →
    highestBelow r' n = highestBelow r n
  | 0, _ => rfl
  | n + 1, h => by
    rw [highestBelow, highestBelow, h n (Nat.lt_succ_self n), highestBelow_congr fun i hi => h i (by omega)]

/-- The request of an internal interrupt makes level 14 the highest, if it is enabled and no higher level was. -/
theorem topLevel_postInternal (s : State) (c : BitVec 4) :
    (s.postInternal c).topLevel = if s.pie.getLsbD 14 = true ∧ s.topLevel < 14 then 14 else s.topLevel := by
  have bit (i : Nat) : (s.postInternal c).requests.getLsbD i
      = if i = 14 then s.pie.getLsbD 14 else s.requests.getLsbD i := by
    simp only [State.requests, State.postInternal, BitVec.getLsbD_and, getLsbD_putBit _ _ _ _ (show 14 < 16 by decide)]
    split <;> simp_all
  have below : highestBelow (s.postInternal c).requests 14 = highestBelow s.requests 14 :=
    highestBelow_congr fun i hi => by rw [bit, if_neg (by omega)]
  have hle := highestBelow_le s.requests 14
  have unfold16 (r : Word) : highestBelow r 16
      = if r.getLsbD 15 then 15 else if r.getLsbD 14 then 14 else highestBelow r 14 := rfl
  have hlt : s.topLevel < 14 ↔ s.requests.getLsbD 15 = false ∧ s.requests.getLsbD 14 = false := by
    rw [BitVec.lt_def, toNat_topLevel, unfold16]
    split
    · simp_all
    · split <;> simp_all
      omega
  refine BitVec.eq_of_toNat_eq ?_
  simp only [toNat_topLevel, unfold16, bit, below, apply_ite BitVec.toNat, hlt]
  have h14 : s.requests.getLsbD 14 = true → s.pie.getLsbD 14 = true := by
    simp only [State.requests, BitVec.getLsbD_and, Bool.and_eq_true]
    exact fun h => h.2
  cases h15 : s.requests.getLsbD 15 <;> cases hr : s.requests.getLsbD 14 <;> cases hp : s.pie.getLsbD 14 <;>
    simp_all

/-- The entry to level 14. -/
theorem takeInternal_of_canEnter14 {s : State} (hs : s.settled) (c : BitVec 4) (hon : s.ioni = true)
    (hpie : s.pie.getLsbD 14 = true) (hpil : s.pil < 14) :
    s.takeInternal c = { s with iic := c, pid := putBit s.pid 14 true, pvl := s.pil, pil := 14 } := by
  have htop : (s.postInternal c).topLevel = 14 := by
    rw [topLevel_postInternal, if_pos ⟨hpie, hs hon ▸ hpil⟩]
  have hne : (14 : Level) ≠ s.pil := by rintro h; rw [← h] at hpil; exact absurd hpil (by decide)
  unfold State.takeInternal State.selectLevel
  rw [htop, if_pos (by simpa [hon] using hne)]
  rfl

/-- Where level 14 cannot be entered the request stays pending. -/
theorem takeInternal_of_not_canEnter14 {s : State} (hs : s.settled) (c : BitVec 4)
    (h : ¬(s.ioni = true ∧ s.pie.getLsbD 14 = true ∧ s.pil < 14)) : s.takeInternal c = s.postInternal c := by
  refine selectLevel_of_settled fun hon => ?_
  have hon : s.ioni = true := hon
  rw [topLevel_postInternal, if_neg (by rw [← hs hon]; exact fun hc => h ⟨hon, hc⟩)]
  exact hs hon

theorem canEnter14_iff (s : State) : s.canEnter14 = true ↔ s.ioni = true ∧ s.pie.getLsbD 14 = true ∧ s.pil < 14 := by
  simp [State.canEnter14, and_assoc]

theorem trapped_of_takeInternal {s : State} (c : BitVec 4) :
    s.Trapped c { s with iic := c, pid := putBit s.pid 14 true, pvl := s.pil, pil := 14 } :=
  ⟨rfl, rfl, rfl, rfl, rfl, rfl, fun _ => rfl, rfl⟩

/-- Settles O10: both ways of raising an interrupt are `takeInternal`, if its IIE bit is set. -/
theorem internalInterrupts : Obligations.InternalInterrupts := by
  refine ⟨fun c s hs => ⟨fun hoff => ?_, fun hon ⟨h1, h2, h3⟩ => ?_, fun hon hnot => ?_⟩,
    fun c s hs => ⟨fun ⟨hon, h1, h2, h3⟩ => ?_, fun hnot => ?_⟩⟩
  · simp [State.raiseAfter, State.interruptEnabled, hoff]
  · rw [State.raiseAfter, if_pos (show s.interruptEnabled c = true from hon), takeInternal_of_canEnter14 hs c h1 h2 h3]
  · rw [State.raiseAfter, if_pos (show s.interruptEnabled c = true from hon), takeInternal_of_not_canEnter14 hs c hnot]
    rfl
  · refine ⟨s.takeInternal c, ?_, ?_⟩
    · rw [raiseAbort, if_pos]
      rw [Bool.and_eq_true, canEnter14_iff]
      exact ⟨hon, h1, h2, h3⟩
    · rw [takeInternal_of_canEnter14 hs c h1 h2 h3]
      exact ⟨trapped_of_takeInternal c, rfl, rfl, rfl, rfl⟩
  · rw [raiseAbort, if_neg]
    rw [Bool.and_eq_true, canEnter14_iff]
    exact hnot

/-! ### Privilege -/

/-- The meaning of a privileged instruction begins with the privilege check (R370). -/
theorem exec_eq_privileged {i : Instr} (s : State) (hi : isPrivileged i = true) : ∃ k, exec i s = privileged s k := by
  cases i with
  | chreentpages | clept | clepu | clnreent | clpt | cnrek | depo | enpt | exam | identPl10 | identPl11 | identPl12
  | identPl13 | inspl | iof | ion | ioxt | lbit | lbitp | opcom | piof | pion | pof | pon | rdusp | rempl | rept | rex
  | rglob | sbit | sbitp | sbytp | setpt | sex | tsetp | wglob | lbytp | lwcs | iox addr | irr l dr | irw l dr | lacb d
  | lasb d | ldatx d | ldbtx d | lddtx d | ldxtx d | lrb l | lxcb d | lxsb d | mcl r | mst r | sacb d | sasb d | srb l
  | statx d | stdtx d | stztx d | szcb d | szsb d | tra r | trr r | wait n => exact ⟨_, rfl⟩
  | movew kind =>
    cases kind with
    | ptPhys | aptPhys | physPt | physApt | physPhys => exact ⟨_, rfl⟩
    | ptPt | ptApt | aptPt | aptApt => cases hi
  | _ => cases hi

/-- Settles O11: the check raises code 6 in user mode. -/
theorem privilegedInUserMode : Obligations.PrivilegedInUserMode := by
  intro i s hi hp hr
  obtain ⟨k, hk⟩ := exec_eq_privileged s hi
  rw [hk, privileged_of_user k (by rw [State.userMode, hp, decide_eq_true hr]; rfl)]

end Sys2Proof.Machine
end

section
/-! PROOF. What every step keeps (O6) and what a program in user mode cannot change (O12). Both follow one way: a predicate
that the small updates, the accesses and the stores they allow keep is kept by every unprivileged instruction. -/

namespace Sys2Proof.Machine

/-! ### Accesses that reach allowed targets -/

/-- A part that goes on has a value with `A` and keeps `P`, one that stops answers with `Q`. -/
def Res.Gives {α : Type} (A : α → Prop) (P Q : State → Prop) (r : Res α) : Prop :=
  match r with
  | .ok a s => A a ∧ P s
  | .stop o => Holds Q o

/-- `P` holds while an unprivileged instruction runs and `Q` after it. As `Steady`, but stores go to the targets `A` alone, which
are those that a virtual access reaches. -/
structure Guarded (A : Target → Prop) (P Q : State → Prop) : Prop where
  reg : ∀ s c v, P s → P (s.setReg c v)
  sts : ∀ s v, P s → P (s.setStsLow v)
  free : ∀ s n, P s → P { s with free := n }
  resolve : ∀ kind tbl va s, P s → (resolve kind tbl va s).Gives A P Q
  store : ∀ g v s, A g → P s → P (store g v s)
  done : ∀ s, P s → Q s
  take : ∀ s c, P s → Q (s.takeInternal c)
  withdraw : ∀ s u t, P s → P u → Q t → Q { t with levels := s.levels, mem := s.mem, ptab := u.ptab }

variable {A : Target → Prop} {P Q : State → Prop}

theorem Res.Gives.keeps {α : Type} {B : α → Prop} {r : Res α} (h : r.Gives B P Q) : r.Keeps P Q := by
  cases r with
  | ok a s => exact h.2
  | stop o => exact h

theorem Res.Keeps.gives {α : Type} {r : Res α} (h : r.Keeps P Q) : r.Gives (fun _ => True) P Q := by
  cases r with
  | ok a s => exact ⟨trivial, h⟩
  | stop o => exact h

theorem gives_bind {α β : Type} {B : α → Prop} {C : β → Prop} {r : Res α} {k : α → State → Res β} (h : r.Gives B P Q)
    (hk : ∀ a u, B a → P u → (k a u).Gives C P Q) : (r.bind k).Gives C P Q := by
  cases r with
  | ok a s => exact hk a s h.1 h.2
  | stop o => exact h

theorem keeps_bind_of_gives {α β : Type} {B : α → Prop} {r : Res α} {k : α → State → Res β} (h : r.Gives B P Q)
    (hk : ∀ a u, B a → P u → (k a u).Keeps P Q) : (r.bind k).Keeps P Q := by
  cases r with
  | ok a s => exact hk a s h.1 h.2
  | stop o => exact h

theorem gives_mapRes {α β : Type} {B : β → Prop} {f : α → State → Res β} (hf : ∀ x u, P u → (f x u).Gives B P Q) :
    ∀ {xs : List α} {s : State}, P s → (mapRes f xs s).Gives (fun ys => ∀ y ∈ ys, B y) P Q
  | [], _, h => ⟨fun _ hy => (List.not_mem_nil hy).elim, h⟩
  | _ :: _, _, h =>
    gives_bind (hf _ _ h) fun _ _ hy hu => gives_bind (gives_mapRes hf hu) fun _ _ hys hw =>
      ⟨List.forall_mem_cons.2 ⟨hy, hys⟩, hw⟩

theorem holds_decimalGuard {odd : Bool} {s : State} {k : Out} (h : Holds Q k) : Holds Q (decimalGuard odd s k) := by
  unfold decimalGuard
  split
  · exact holds_refused
  · split
    · exact holds_refused
    · exact h

/-- A predicate that all small updates keep needs no guard. -/
theorem Steady.guarded (S : Steady P Q) : Guarded (fun _ => True) P Q where
  reg := S.reg
  sts := S.sts
  free := S.free
  resolve := fun _ _ _ _ h => (S.resolve h).gives
  store := fun _ _ _ _ h => S.store h
  done := S.done
  take := S.take
  withdraw := S.withdraw

namespace Guarded

variable (G : Guarded A P Q)
include G

/-! ### The shared operations -/

theorem flag {s : State} (f : Flag) (b : Bool) (h : P s) : P (s.setFlag f b) := G.sts s _ h

theorem advance {s : State} (h : P s) : P s.advance := G.reg s _ _ h

theorem skip {s : State} (h : P s) : P s.skip := G.reg s _ _ h

theorem jump {s : State} (a : Word) (h : P s) : P (s.jump a) := G.reg s _ _ h

theorem regOr0 {s : State} (r : Option Reg) (v : Word) (h : P s) : P (s.setRegOr0 r v) := by
  cases r with
  | none => exact h
  | some c => exact G.reg s c v h

theorem adder {s : State} (x y : Word) (c : Bool) (h : P s) : P (s.setAdderFlags x y c) :=
  G.flag _ _ (G.flag _ _ (G.flag _ _ h))

theorem next {s : State} (h : P s) : Holds Q (.next s) := holds_next (G.done s h)

theorem raiseAfter {s : State} (c : BitVec 4) (h : P s) : Q (s.raiseAfter c) := by
  unfold State.raiseAfter
  split
  · exact G.take s c h
  · exact G.done s h

theorem error {s : State} (h : P s) : Q s.setErrorAndRaise := G.raiseAfter 5 (G.flag _ _ h)

theorem raiseAbort {s : State} (c : BitVec 4) (h : P s) : Holds Q (Sys2Proof.Machine.raiseAbort c s) := by
  unfold Sys2Proof.Machine.raiseAbort
  split
  · exact holds_next (G.take s c h)
  · exact holds_refused

theorem load {g : Target} {s : State} (h : P s) : (Sys2Proof.Machine.load g s).Keeps P Q := by
  cases g with
  | mem pa => exact h
  | ptab i => exact h
  | absent => exact G.free _ _ h

theorem fresh {s : State} (h : P s) : (freshWord s).Keeps P Q := G.free _ _ h

theorem storeIn {pass : Pass} {g : Target} {v : Word} {s : State} (hg : A g) (h : P s) :
    P (Sys2Proof.Machine.storeIn pass g v s) := by
  cases pass with
  | check => exact h
  | perform => exact G.store _ _ _ hg h

theorem storeList {gs : List Target} {vs : List Word} {s : State} (hg : ∀ g ∈ gs, A g) (h : P s) :
    P (Sys2Proof.Machine.storeList gs vs s) := by
  induction gs generalizing vs s with
  | nil => exact h
  | cons g gs ih =>
    cases vs with
    | nil => exact h
    | cons v vs =>
      obtain ⟨hg, hgs⟩ := List.forall_mem_cons.1 hg
      exact ih hgs (G.store _ _ _ hg h)

theorem readVirt {tbl : Table} {va : Word} {s : State} (h : P s) : (Sys2Proof.Machine.readVirt tbl va s).Keeps P Q :=
  keeps_bind_of_gives (G.resolve _ _ _ _ h) fun _ _ _ hu => G.load hu

theorem fetchWord {va : Word} {s : State} (h : P s) : (Sys2Proof.Machine.fetchWord va s).Keeps P Q :=
  keeps_bind_of_gives (G.resolve _ _ _ _ h) fun _ _ _ hu => G.load hu

theorem writeVirt {tbl : Table} {va v : Word} {s : State} (h : P s) :
    (Sys2Proof.Machine.writeVirt tbl va v s).Keeps P Q :=
  keeps_bind_of_gives (G.resolve _ _ _ _ h) fun _ _ hg hu => keeps_ok (G.store _ _ _ hg hu)

theorem writeVirtIn {pass : Pass} {tbl : Table} {va v : Word} {s : State} (h : P s) :
    (Sys2Proof.Machine.writeVirtIn pass tbl va v s).Keeps P Q :=
  keeps_bind_of_gives (G.resolve _ _ _ _ h) fun _ _ hg hu => keeps_ok (G.storeIn hg hu)

theorem resolve2 {kind : AccessKind} {tbl : Table} {a b : Word} {s : State} (h : P s) :
    (Sys2Proof.Machine.resolve2 kind tbl a b s).Gives (fun g => A g.1 ∧ A g.2) P Q :=
  gives_bind (G.resolve _ _ _ _ h) fun _ _ hg hu => gives_bind (G.resolve _ _ _ _ hu) fun _ _ hg' hw => ⟨⟨hg, hg'⟩, hw⟩

theorem writeList {tbl : Table} {vas vs : List Word} {s : State} (h : P s) :
    (Sys2Proof.Machine.writeList tbl vas vs s).Keeps P Q :=
  keeps_bind_of_gives (gives_mapRes (fun _ _ hu => G.resolve _ _ _ _ hu) h) fun _ _ hg hu => keeps_ok (G.storeList hg hu)

theorem effAddr {m : MemOperand} {s : State} (h : P s) : (Sys2Proof.Machine.effAddr m s).Keeps P Q := by
  unfold Sys2Proof.Machine.effAddr
  split
  · exact keeps_bind (G.readVirt h) fun _ _ hu => keeps_ok hu
  · exact h

theorem readOperand {m : MemOperand} {s : State} (h : P s) : (Sys2Proof.Machine.readOperand m s).Keeps P Q :=
  keeps_bind (G.effAddr h) fun _ _ hu => G.readVirt hu

theorem writeOperand {m : MemOperand} {v : Word} {s : State} (h : P s) :
    (Sys2Proof.Machine.writeOperand m v s).Keeps P Q :=
  keeps_bind (G.effAddr h) fun _ _ hu => G.writeVirt hu

theorem readTwo {tbl : Table} {a : Word} {s : State} (h : P s) : (Sys2Proof.Machine.readTwo tbl a s).Keeps P Q :=
  keeps_bind (G.readVirt h) fun _ _ hu => keeps_bind (G.readVirt hu) fun _ _ hw => keeps_ok hw

theorem writeTwo {tbl : Table} {a v w : Word} {s : State} (h : P s) :
    (Sys2Proof.Machine.writeTwo tbl a v w s).Keeps P Q :=
  keeps_bind_of_gives (G.resolve2 h) fun _ _ hg hu => keeps_ok (G.store _ _ _ hg.2 (G.store _ _ _ hg.1 hu))

theorem readThree {tbl : Table} {a : Word} {s : State} (h : P s) :
    (Sys2Proof.Machine.readThree tbl a s).Keeps P Q :=
  keeps_bind (G.readVirt h) fun _ _ hu => keeps_bind (G.readVirt hu) fun _ _ hw => keeps_bind (G.readVirt hw) fun _ _ hx =>
    keeps_ok hx

theorem writeThree {tbl : Table} {a u v w : Word} {s : State} (h : P s) :
    (Sys2Proof.Machine.writeThree tbl a u v w s).Keeps P Q :=
  keeps_bind_of_gives (G.resolve2 h) fun _ _ hg hu => keeps_bind_of_gives (G.resolve _ _ _ _ hu) fun _ _ hg' hw =>
    keeps_ok (G.store _ _ _ hg' (G.store _ _ _ hg.2 (G.store _ _ _ hg.1 hw)))

/-- What both passes of a part keep, the part keeps. -/
theorem inOrder {α : Type} {part : Pass → State → Res α} {s : State} (h : P s)
    (hp : ∀ pass, (part pass s).Keeps P Q) : (Sys2Proof.Machine.inOrder part s).Keeps P Q := by
  have hcheck := hp .check
  have hperform := hp .perform
  cases e : Sys2Proof.Machine.inOrder part s with
  | ok a t =>
    rw [(inOrder_ok e).2] at hperform
    exact hperform
  | stop o =>
    rcases inOrder_stop e with e | ⟨b, u, p, e1, e2, rfl⟩
    · rw [e] at hcheck
      exact hcheck
    · rw [e1] at hcheck
      rw [e2] at hperform
      intro t et
      cases p with
      | next v => cases et; exact G.withdraw s u v h hcheck (hperform v rfl)
      | fault f => cases et
      | refused r => cases et

theorem modifyIn {pass : Pass} {tbl : Table} {a : Word} {f : Word → Word} {s : State} (h : P s) :
    (Sys2Proof.Machine.modifyIn pass tbl a f s).Keeps P Q :=
  keeps_bind_of_gives (G.resolve _ _ _ _ h) fun _ _ _ hu => keeps_bind_of_gives (G.resolve _ _ _ _ hu) fun _ _ hg hw =>
    keeps_bind (G.load hw) fun _ _ hx => keeps_ok (G.storeIn hg hx)

theorem readByte {tbl : Table} {p : BytePlace} {s : State} (h : P s) :
    (Sys2Proof.Machine.readByte tbl p s).Keeps P Q := keeps_bind (G.readVirt h) fun _ _ hu => keeps_ok hu

theorem fillByteIn {pass : Pass} {tbl : Table} {b : Byte} {p : BytePlace} {s : State} (h : P s) :
    (Sys2Proof.Machine.fillByteIn pass tbl b p s).Keeps P Q :=
  keeps_bind_of_gives (G.resolve _ _ _ _ h) fun _ _ hg hu => keeps_bind (G.load hu) fun _ _ hw => keeps_ok (G.storeIn hg hw)

theorem moveAll {src dst : ByteField} {n : Nat} {pass : Pass} {s : State} (h : P s) :
    (Sys2Proof.Machine.moveAll src dst n pass s).Keeps P Q :=
  keeps_bind (keeps_mapRes (fun _ _ hu => G.readByte hu) h) fun _ _ hu => keeps_mapRes (fun _ _ hw => G.modifyIn hw) hu

theorem moveByte {src dst : Table} {pass : Pass} {q : BytePlace × BytePlace} {s : State} (h : P s) :
    (Sys2Proof.Machine.moveByte src dst pass q s).Keeps P Q :=
  keeps_bind (G.readByte h) fun _ _ hu => G.modifyIn hu

theorem afterByteMove {s : State} (n : Nat) (h : P s) : P (s.afterByteMove n) :=
  G.reg _ _ _ (G.reg _ _ _ (G.reg _ _ _ (G.reg _ _ _ h)))

theorem leaveWithError {pass : Pass} {s : State} (h : P s) :
    (Sys2Proof.Machine.leaveWithError pass s).Keeps P Q :=
  keeps_bind (G.readVirt h) fun _ _ h1 => keeps_bind (G.writeVirtIn h1) fun _ _ h2 =>
    keeps_bind (G.readVirt h2) fun _ _ h3 => keeps_bind (G.writeVirtIn h3) fun _ _ h4 => keeps_ok h4

theorem accumulator {s : State} (w : BitVec 48) (h : P s) : P (s.setAccumulator w) := by
  unfold State.setAccumulator
  dsimp only
  split
  · exact G.reg _ _ _ (G.reg _ _ _ (G.reg _ _ _ h))
  · exact G.reg _ _ _ (G.reg _ _ _ h)

theorem readFloat {m : MemOperand} {s : State} (h : P s) : (Sys2Proof.Machine.readFloat m s).Keeps P Q := by
  refine keeps_bind (G.effAddr h) fun p u hu => ?_
  split
  · exact keeps_bind (G.readThree hu) fun _ _ hw => keeps_ok hw
  · exact keeps_bind (G.readTwo hu) fun _ _ hw => keeps_ok hw

theorem stepAddress {space : MoveSpace} {hi lo : Reg} {s : State} (h : P s) :
    P (Sys2Proof.Machine.stepAddress space hi lo s) := by
  unfold Sys2Proof.Machine.stepAddress
  dsimp only
  split
  · exact G.reg _ _ _ (G.reg _ _ _ h)
  · exact G.reg _ _ _ h

/-- A word of MOVEW between two virtual addresses. -/
theorem moveOneWord {kind : MovewKind} {s : State} (hk : movePrivileged kind = false) (h : P s) :
    (Sys2Proof.Machine.moveOneWord kind s).Keeps P Q := by
  obtain ⟨src, dst, hs, hd⟩ : ∃ src dst, moveSource kind = .virt src ∧ moveDest kind = .virt dst := by
    cases kind <;> first | exact ⟨_, _, rfl, rfl⟩ | cases hk
  unfold Sys2Proof.Machine.moveOneWord
  rw [hs, hd]
  exact keeps_bind (keeps_bind_of_gives (G.resolve _ _ _ _ h) fun _ _ _ hu => G.load hu) fun _ _ hu =>
    keeps_bind_of_gives (G.resolve _ _ _ _ hu) fun _ _ hg hw =>
      keeps_ok (G.reg _ _ _ (G.stepAddress (G.stepAddress (G.store _ _ _ hg hw))))

theorem readDecimal {f : DecimalField} {n : Nat} {s : State} (h : P s) :
    (Sys2Proof.Machine.readDecimal f n s).Keeps P Q := keeps_mapRes (fun _ _ hu => G.readByte hu) h

theorem readBcd {f : DecimalField} {s : State} (h : P s) : (Sys2Proof.Machine.readBcd f s).Keeps P Q :=
  keeps_bind (G.readDecimal h) fun _ _ hu => keeps_ok hu

theorem writeDecimal {f : DecimalField} {bs : List Byte} {s : State} (h : P s) :
    (Sys2Proof.Machine.writeDecimal f bs s).Keeps P Q :=
  G.inOrder h fun _ => keeps_mapRes (fun _ _ hu => G.modifyIn hu) h

theorem decimalError {f : DecimalField} {s : State} (h : P s) : Holds Q (Sys2Proof.Machine.decimalError f s) :=
  holds_andThen (keeps_bind (keeps_mapRes (fun _ _ hu => G.fresh hu) h) fun _ _ hu => keeps_ok hu) fun _ _ hu =>
    holds_andThen (G.writeDecimal hu) fun _ _ hw => G.next (G.advance hw)

theorem decimalSum {r : Int} {z : Bool} {f : DecimalField} {s : State} (h : P s) :
    Holds Q (Sys2Proof.Machine.decimalSum r z f s) := by
  unfold Sys2Proof.Machine.decimalSum
  split
  · exact G.decimalError h
  · exact holds_andThen (G.writeDecimal h) fun _ _ hw => G.next (G.skip hw)

theorem finishConversion {f : DecimalField} {bs : List Byte} {b : Bool} {s : State} (h : P s) :
    Holds Q (Sys2Proof.Machine.finishConversion f bs b s) := by
  refine holds_andThen (G.writeDecimal h) fun _ u hu => ?_
  split
  · exact G.next (G.advance (G.reg _ _ _ hu))
  · exact holds_andThen (G.fresh hu) fun _ _ hw => G.next (G.skip (G.reg _ _ _ hw))

theorem illegalCode {f : DecimalField} {i : Nat} {s : State} (h : P s) : P (Sys2Proof.Machine.illegalCode f i s) :=
  G.advance (G.reg _ _ _ (G.reg _ _ _ (G.reg _ _ _ h)))

theorem skipIf {b : Bool} {s : State} (h : P s) : P (Sys2Proof.Machine.skipIf b s) := by
  unfold Sys2Proof.Machine.skipIf
  split
  · exact G.advance h
  · exact h

theorem writeBit {bn : BitVec 4} {dr : StsOrReg} {b : Bool} {s : State} (h : P s) :
    P (Sys2Proof.Machine.writeBit bn dr b s) := by
  cases dr with
  | sts => exact G.sts _ _ h
  | reg r => exact G.reg _ _ _ h

theorem raiseIfError {bn : BitVec 4} {dr : StsOrReg} {b : Bool} {s : State} (h : P s) :
    Q (Sys2Proof.Machine.raiseIfError bn dr b s) := by
  unfold Sys2Proof.Machine.raiseIfError
  split
  · exact G.raiseAfter 5 h
  · exact G.done s h

theorem withBit {bn : BitVec 4} {dr : StsOrReg} {s : State} {k : State → State} (h : P s) (hk : ∀ u, P u → Q (k u)) :
    Holds Q (Sys2Proof.Machine.withBit bn dr s k) := by
  unfold Sys2Proof.Machine.withBit
  split
  · exact holds_refused
  · exact holds_next (hk _ (G.advance h))

theorem setBitTo {bn : BitVec 4} {dr : StsOrReg} {b : Bool} {s : State} (h : P s) :
    Q (Sys2Proof.Machine.setBitTo bn dr b s) := G.raiseIfError (G.writeBit h)

theorem storeBit {bn : BitVec 4} {dr : StsOrReg} {b k : Bool} {s : State} (h : P s) :
    Q (Sys2Proof.Machine.storeBit bn dr b k s) := G.raiseIfError (G.flag _ _ (G.writeBit h))

theorem jumpIf {c : Bool} {d : BitVec 8} {s : State} (h : P s) : P (Sys2Proof.Machine.jumpIf c d s) := by
  unfold Sys2Proof.Machine.jumpIf
  split
  · exact G.jump _ h
  · exact G.advance h

theorem registerAdd {adc ad1 cm1 cld : Bool} {sr dr : Option Reg} {s : State} (h : P s) :
    P (Sys2Proof.Machine.registerAdd adc ad1 cm1 cld sr dr s) := by
  unfold Sys2Proof.Machine.registerAdd
  dsimp only
  split
  · exact G.advance h
  · split
    · exact G.flag _ _ (G.advance h)
    · exact G.reg _ _ _ (G.adder _ _ _ (G.advance h))

theorem afterShift {s : State} {t : ShiftType} {n : BitVec 6} {m : Bool} (h : P s) : P (s.afterShift t n m) := by
  unfold State.afterShift
  dsimp only
  split
  · exact G.free _ _ (G.flag _ _ h)
  · exact G.flag _ _ h

/-! ### The unprivileged instructions -/

/-- The instructions that a program in user mode can execute, but MON and EXR. -/
theorem exec {i : Instr} {s : State} (hi : isPrivileged i = false) (hmon : ∀ n, i ≠ .mon n) (hexr : ∀ r, i ≠ .exr r)
    (h : P s) : Holds Q (Sys2Proof.Machine.exec i s) := by
  cases i with
  | mon n => exact absurd rfl (hmon n)
  | exr r => exact absurd rfl (hexr r)
  | lda m | ldt m | ldx m => exact holds_andThen (G.readOperand h) fun _ _ hu => G.next (G.advance (G.reg _ _ _ hu))
  | sta m | stt m | stx m | stz m => exact holds_andThen (G.writeOperand h) fun _ _ hu => G.next (G.advance hu)
  | ldd m =>
    exact holds_andThen (G.effAddr h) fun _ _ hu => holds_andThen (G.readTwo hu) fun _ _ hw =>
      G.next (G.advance (G.reg _ _ _ (G.reg _ _ _ hw)))
  | ldf m =>
    refine holds_andThen (G.effAddr h) fun _ _ hu => ?_
    split
    · exact holds_andThen (G.readThree hu) fun _ _ hw => G.next (G.advance (G.reg _ _ _ (G.reg _ _ _ (G.reg _ _ _ hw))))
    · exact holds_andThen (G.readTwo hu) fun _ _ hw => G.next (G.advance (G.reg _ _ _ (G.reg _ _ _ hw)))
  | std m =>
    exact holds_andThen (G.effAddr h) fun _ _ hu => holds_andThen (G.writeTwo hu) fun _ _ hw => G.next (G.advance hw)
  | stf m =>
    refine holds_andThen (G.effAddr h) fun _ _ hu => ?_
    split
    · exact holds_andThen (G.writeThree hu) fun _ _ hw => G.next (G.advance hw)
    · exact holds_andThen (G.writeTwo hu) fun _ _ hw => G.next (G.advance hw)
  | min m =>
    refine holds_andThen (G.effAddr h) fun _ _ hu => holds_andThen (G.modifyIn hu) fun _ _ hw => ?_
    split
    · exact G.next (G.skip hw)
    · exact G.next (G.advance hw)
  | add m | sub m =>
    exact holds_andThen (G.readOperand h) fun _ _ hu => G.next (G.advance (G.reg _ _ _ (G.adder _ _ _ hu)))
  | mpy m =>
    exact holds_andThen (G.readOperand h) fun _ _ hu => G.next (G.advance (G.reg _ _ _ (G.flag _ _ (G.flag _ _ hu))))
  | and m | ora m => exact holds_andThen (G.readOperand h) fun _ _ hu => G.next (G.advance (G.reg _ _ _ hu))
  | fad m | fsb m | fmu m =>
    exact holds_andThen (G.readFloat h) fun _ _ hu => G.next (G.advance (G.accumulator _ hu))
  | fdv m =>
    refine holds_andThen (G.readFloat h) fun _ _ hu => holds_next ?_
    split
    · exact G.error (G.advance (G.accumulator _ (G.free _ _ hu)))
    · exact G.done _ (G.advance (G.accumulator _ hu))
  | nlz sc => exact G.next (G.advance (G.accumulator _ h))
  | dnz sc =>
    have h1 : P ((s.setReg .d 0).setAnyT48.advance) := by
      unfold State.setAnyT48
      split
      · exact G.advance (G.reg _ _ _ (G.free _ _ (G.reg _ _ _ h)))
      · exact G.advance (G.reg _ _ _ h)
    show Holds Q (execDnz sc s)
    unfold execDnz
    dsimp only
    split
    · split
      · exact holds_andThen (G.fresh h1) fun _ _ hu => holds_next (G.error (G.reg _ _ _ hu))
      · exact G.next (G.reg _ _ _ h1)
    · refine holds_next ?_
      split
      · exact G.error (G.reg _ _ _ h1)
      · exact G.done _ (G.reg _ _ _ h1)
  | jmp m => exact holds_andThen (G.effAddr h) fun _ _ hu => G.next (G.jump _ hu)
  | jpl m => exact holds_andThen (G.effAddr h) fun _ _ hu => G.next (G.jump _ (G.reg _ _ _ hu))
  | jap d | jan d | jaz d | jaf d | jxz d | jxn d => exact G.next (G.jumpIf h)
  | jpc d | jnc d => exact G.next (G.jumpIf (G.reg _ _ _ h))
  | skp c sr dr =>
    show Holds Q (execSkp c sr dr s)
    unfold execSkp
    dsimp only
    split
    · exact G.next (G.skip h)
    · exact G.next (G.advance h)
  | addd =>
    refine holds_decimalGuard (holds_andThen (G.readBcd h) fun x _ hu => holds_andThen (G.readBcd hu) fun y _ hw => ?_)
    split
    · exact G.decimalSum hw
    · exact G.decimalError hw
  | subd =>
    refine holds_decimalGuard (holds_andThen (G.readBcd h) fun x _ hu => holds_andThen (G.readBcd hu) fun y _ hw => ?_)
    split
    · exact holds_andThen (G.fresh hw) fun _ _ hx => G.decimalSum hx
    · exact G.decimalError hw
  | comd =>
    refine holds_decimalGuard (holds_andThen (G.readBcd h) fun x _ hu => holds_andThen (G.readBcd hu) fun y _ hw => ?_)
    split
    · exact G.next (G.skip (G.reg _ _ _ hw))
    · exact holds_andThen (G.fresh hw) fun _ _ hx => G.next (G.advance (G.reg _ _ _ hx))
  | pack =>
    refine holds_decimalGuard (holds_andThen (G.readDecimal h) fun _ _ hu => ?_)
    dsimp only
    split
    · exact G.next (G.illegalCode hu)
    · exact G.finishConversion hu
  | upack =>
    refine holds_decimalGuard (holds_andThen (G.readDecimal h) fun _ _ hu => ?_)
    split
    · exact G.next (G.illegalCode hu)
    · exact G.finishConversion hu
  | shde =>
    refine holds_decimalGuard (holds_andThen (G.readBcd h) fun x _ hu => ?_)
    split
    · exact G.next (G.advance hu)
    · dsimp only
      split
      · exact G.next (G.advance hu)
      · exact holds_andThen (G.writeDecimal hu) fun _ _ hw => G.next (G.skip hw)
  | rdus => exact holds_andThen (G.readVirt h) fun _ _ hu => G.next (G.advance (G.reg _ _ _ hu))
  | tset => exact holds_andThen (G.modifyIn h) fun _ _ hu => G.next (G.advance (G.reg _ _ _ hu))
  | bfill =>
    show Holds Q (execBfill s)
    unfold execBfill
    dsimp only
    split
    · exact holds_refused
    · exact holds_andThen (G.inOrder h fun _ => keeps_mapRes (fun _ _ hu => G.fillByteIn hu) h) fun _ _ hu =>
        G.next (G.advance (G.reg _ _ _ (G.reg _ _ _ hu)))
  | movb =>
    show Holds Q (execMovb s)
    unfold execMovb
    split
    · exact holds_refused
    · exact holds_andThen (G.inOrder h fun _ => G.moveAll h) fun _ _ hu => G.next (G.advance (G.afterByteMove _ hu))
  | movbf =>
    show Holds Q (execMovbf s)
    unfold execMovbf
    split
    · exact holds_refused
    · exact holds_andThen (G.inOrder h fun _ => keeps_mapRes (fun _ _ hu => G.moveByte hu) h) fun _ _ hu =>
        G.next (G.advance (G.afterByteMove _ hu))
  | versn => exact G.next (G.advance (G.reg _ _ _ (G.reg _ _ _ (G.reg _ _ _ h))))
  | entr =>
    refine holds_andThen (G.readVirt h) fun _ _ h1 => holds_andThen (G.readVirt h1) fun _ _ h2 =>
      holds_andThen (G.readVirt h2) fun _ _ h3 => ?_
    dsimp only
    split
    · exact G.next (G.jump _ h3)
    · exact holds_andThen (G.writeList h3) fun _ _ h4 => G.next (G.jump _ (G.reg _ _ _ h4))
  | init =>
    refine holds_andThen (G.readVirt h) fun _ _ h1 => holds_andThen (G.readVirt h1) fun _ _ h2 =>
      holds_andThen (G.readVirt h2) fun _ _ h3 => holds_andThen (G.readVirt h3) fun _ _ h4 => ?_
    dsimp only
    split
    · exact G.next (G.jump _ h4)
    · exact holds_andThen (G.writeList h4) fun _ _ h5 => G.next (G.jump _ (G.reg _ _ _ h5))
  | leave =>
    exact holds_andThen (G.readVirt h) fun _ _ h1 => holds_andThen (G.readVirt h1) fun _ _ h2 =>
      G.next (G.jump _ (G.reg _ _ _ h2))
  | eleav =>
    exact holds_andThen (G.inOrder h fun _ => G.leaveWithError h) fun _ _ hu => G.next (G.jump _ (G.reg _ _ _ hu))
  | rmpy sr dr =>
    cases dr with
    | none => exact G.next (G.advance h)
    | some r => exact G.next (G.reg _ _ _ (G.reg _ _ _ (G.advance h)))
  | rdiv sr =>
    show Holds Q (execRdiv sr s)
    unfold execRdiv
    dsimp only
    split
    · exact G.next (G.reg _ _ _ (G.reg _ _ _ (G.advance h)))
    · exact holds_andThen (G.fresh (G.advance h)) fun _ _ hu => holds_andThen (G.fresh hu) fun _ _ hw =>
        holds_next (G.error (G.reg _ _ _ (G.reg _ _ _ hw)))
  | lbyt => exact holds_andThen (G.readByte h) fun _ _ hu => G.next (G.advance (G.reg _ _ _ hu))
  | sbyt => exact holds_andThen (G.modifyIn h) fun _ _ hu => G.next (G.advance hu)
  | movew kind =>
    have hk : movePrivileged kind = false := by cases kind <;> first | rfl | cases hi
    show Holds Q (execMovew kind s)
    unfold execMovew moveWords
    rw [hk, if_neg Bool.false_ne_true]
    split
    · exact G.next (G.advance h)
    · refine holds_andThen (keeps_repeatRes (fun _ hu => G.moveOneWord hk hu) h) fun _ _ hu => ?_
      split
      · exact G.next (G.advance hu)
      · exact G.next hu
  | mix3 => exact G.next (G.advance (G.reg _ _ _ h))
  | swap cm1 cld sr dr =>
    have h1 := G.advance h
    show Holds Q (execSwap cm1 cld sr dr s)
    unfold execSwap
    dsimp only
    split
    · exact G.next h1
    · exact G.next (G.reg _ _ _ h1)
    · split
      · split
        · exact holds_andThen (G.fresh h1) fun _ _ hu => G.next (G.reg _ _ _ hu)
        · exact G.next (G.reg _ _ _ h1)
      · exact G.next (G.reg _ _ _ (G.reg _ _ _ h1))
  | rand cm1 cld sr dr | rexo cm1 cld sr dr | rora cm1 cld sr dr => exact G.next (G.regOr0 _ _ (G.advance h))
  | radd adc ad1 cm1 cld sr dr => exact G.next (G.registerAdd h)
  | copy sr dr | rsub sr dr => exact G.next (G.registerAdd h)
  | rclr dr | rdcr dr | rinc dr => exact G.next (G.registerAdd h)
  | exit => exact G.next (G.registerAdd h)
  | sht t n | shd t n | sha t n => exact G.next (G.advance (G.reg _ _ _ (G.afterShift h)))
  | sad t n => exact G.next (G.advance (G.reg _ _ _ (G.reg _ _ _ (G.afterShift h))))
  | sab n | saa n | sat n | sax n => exact G.next (G.advance (G.reg _ _ _ h))
  | aab n | aaa n | aat n | aax n => exact G.next (G.advance (G.reg _ _ _ (G.adder _ _ _ h)))
  | bsetZro bn dr | bsetOne bn dr | bsetBcm bn dr | bsetBac bn dr => exact G.withBit h fun _ hu => G.setBitTo hu
  | bskpZro bn dr | bskpOne bn dr | bskpBcm bn dr | bskpBac bn dr =>
    exact G.withBit h fun _ hu => G.done _ (G.skipIf hu)
  | bstc bn dr | bsta bn dr => exact G.withBit h fun _ hu => G.storeBit hu
  | bldc bn dr | blda bn dr | banc bn dr | band bn dr | borc bn dr | bora bn dr =>
    exact G.withBit h fun _ hu => G.done _ (G.flag _ _ hu)
  | _ => cases hi

/-! ### Every instruction and every step -/

/-- EXR executes an instruction other than EXR, or sets Z, or is illegal. -/
theorem exec_all (hpriv : ∀ i u, isPrivileged i = true → P u → Holds Q (Sys2Proof.Machine.exec i u))
    (hmon : ∀ n u, P u → Holds Q (Sys2Proof.Machine.exec (.mon n) u)) (i : Instr) {s : State} (h : P s) :
    Holds Q (Sys2Proof.Machine.exec i s) := by
  have other (i : Instr) (hexr : ∀ r, i ≠ .exr r) : Holds Q (Sys2Proof.Machine.exec i s) := by
    by_cases hi : isPrivileged i = true
    · exact hpriv i s hi h
    · by_cases hm : ∃ n, i = .mon n
      · obtain ⟨n, rfl⟩ := hm
        exact hmon n s h
      · exact G.exec (by simpa using hi) (fun n hn => hm ⟨n, hn⟩) hexr h
  by_cases hexr : ∃ r, i = .exr r
  · obtain ⟨r, rfl⟩ := hexr
    show Holds Q (execExr r s)
    unfold execExr
    split
    · next j _ =>
      by_cases hj : ∃ q, j = .exr q
      · obtain ⟨q, rfl⟩ := hj
        exact holds_next (G.error (G.advance h))
      · rw [execInner_eq_exec j s fun q hq => hj ⟨q, hq⟩]
        exact other j fun q hq => hj ⟨q, hq⟩
    · exact G.raiseAbort 4 h
  · exact other i fun r hr => hexr ⟨r, hr⟩

/-- The fetch and the instruction of a step. -/
theorem step (hpriv : ∀ i u, isPrivileged i = true → P u → Holds Q (Sys2Proof.Machine.exec i u))
    (hmon : ∀ n u, P u → Holds Q (Sys2Proof.Machine.exec (.mon n) u)) {s : State} (h : P s.selectLevel) :
    Holds Q (Sys2Proof.Machine.step s) := by
  cases hrun : s.run with
  | stopped => rw [(stepStops.2 s).1 hrun]; exact holds_fault
  | opcom => rw [(stepStops.2 s).2 hrun]; exact holds_fault
  | running =>
    have hk := G.fetchWord (va := s.selectLevel.pc) h
    cases hf : Sys2Proof.Machine.fetchWord s.selectLevel.pc s.selectLevel with
    | stop o =>
      rw [stepStops.1 s o hrun hf]
      rwa [hf] at hk
    | ok w u =>
      rw [hf] at hk
      obtain ⟨-, hok, herr⟩ := stepRunsDecoded s u w hrun hf
      cases hd : decodeWord w with
      | ok i => rw [hok i hd]; exact G.exec_all hpriv hmon i hk
      | error e => rw [herr e hd]; exact G.raiseAbort 4 hk

end Guarded

end Sys2Proof.Machine
end

section
/-! PROOF. O6: every step keeps the invariant. The unprivileged instructions by `Guarded.exec`; of the privileged ones those
that move words and registers in the same way, the others by what they do to levels, PID and the devices. -/

namespace Sys2Proof.Machine

/-! ### The updates that the invariant sees -/

theorem State.Inv.selectLevel {s : State} (hm : s.memoryWf) (hd : s.devicesPend) : s.selectLevel.Inv :=
  ⟨by simpa [State.memoryWf] using hm, s.settled_selectLevel,
    by simpa [State.devicesPend, State.deviceLines] using hd⟩

/-- Writing PID leaves the bits of the devices (R488), so that level selection restores the invariant. -/
theorem devicesPend_setPid (s : State) (w : Word) : (s.setPid w).devicesPend := by
  show s.deviceLines &&& ~~~(w ||| s.deviceLines) = 0
  ext i hi
  cases h : s.deviceLines[i] <;> simp [h]

theorem getElem_putBit {n : Nat} (w : BitVec n) (i j : Nat) (b : Bool) (hi : i < n) (hj : j < n) :
    (putBit w i b)[j] = if j = i then b else w[j] := by
  rw [← BitVec.getLsbD_eq_getElem hj, getLsbD_putBit w i j b hi, BitVec.getLsbD_eq_getElem hj]

theorem devicesPend_iff (s : State) :
    s.devicesPend ↔ (s.req10 ≠ [] → s.pid.getLsbD 10 = true) ∧ (s.req11 ≠ [] → s.pid.getLsbD 11 = true)
      ∧ (s.req12 ≠ [] → s.pid.getLsbD 12 = true) ∧ (s.req13 ≠ [] → s.pid.getLsbD 13 = true) := by
  have bit (b : Bool) (k i : Nat) (hk : k < 16) (hi : i < 16) : (bitWord b <<< k).getLsbD i = (b && decide (i = k)) := by
    cases b with
    | false => simp [bitWord]
    | true =>
      rw [Bool.eq_iff_iff]
      simp [bitWord, BitVec.getLsbD_shiftLeft, BitVec.getLsbD_one]
      omega
  have line (i : Nat) (hi : i < 16) : s.deviceLines.getLsbD i
      = ((!s.req10.isEmpty && decide (i = 10)) || (!s.req11.isEmpty && decide (i = 11))
        || (!s.req12.isEmpty && decide (i = 12)) || (!s.req13.isEmpty && decide (i = 13))) := by
    simp only [State.deviceLines, BitVec.getLsbD_or, bit _ _ _ (show 10 < 16 by decide) hi,
      bit _ _ _ (show 11 < 16 by decide) hi, bit _ _ _ (show 12 < 16 by decide) hi, bit _ _ _ (show 13 < 16 by decide) hi]
  have pend : s.devicesPend ↔ ∀ i < 16, s.deviceLines.getLsbD i = true → s.pid.getLsbD i = true := by
    constructor
    · intro h i hi hl
      have := congrArg (·.getLsbD i) (show s.deviceLines &&& ~~~s.pid = 0 from h)
      simpa [hi, hl] using this
    · intro h
      refine BitVec.eq_of_getLsbD_eq fun i hi => ?_
      have := h i hi
      cases hl : s.deviceLines.getLsbD i <;> simp_all
  rw [pend]
  constructor
  · intro h
    refine ⟨fun hr => h 10 (by decide) ?_, fun hr => h 11 (by decide) ?_, fun hr => h 12 (by decide) ?_,
      fun hr => h 13 (by decide) ?_⟩ <;>
      · rw [line _ (by decide)]
        simp [hr]
  · rintro ⟨h10, h11, h12, h13⟩ i hi hl
    simp only [line i hi, Bool.or_eq_true, Bool.and_eq_true, Bool.not_eq_true', List.isEmpty_eq_false_iff,
      decide_eq_true_eq] at hl
    rcases hl with ((⟨hr, rfl⟩ | ⟨hr, rfl⟩) | ⟨hr, rfl⟩) | ⟨hr, rfl⟩
    · exact h10 hr
    · exact h11 hr
    · exact h12 hr
    · exact h13 hr

theorem devicesPend_postInternal {s : State} (h : s.devicesPend) (c : BitVec 4) : (s.postInternal c).devicesPend := by
  rw [devicesPend_iff] at h ⊢
  simpa [State.postInternal, getElem_putBit] using h

theorem keptRequests_ne_nil {s : State} {l : Level} {rs : List (BitVec 9)} (h : s.keptRequests l rs ≠ []) : rs ≠ [] := by
  rintro rfl
  exact h rfl

theorem State.Inv.withdrawRequests {s : State} (h : s.Inv) : s.withdrawRequests.Inv := by
  refine ⟨h.memory, h.settled, ?_⟩
  have hd := (devicesPend_iff s).1 h.devices
  obtain ⟨h10, h11, h12, h13⟩ := hd
  exact (devicesPend_iff _).2 ⟨fun hr => h10 (keptRequests_ne_nil hr), fun hr => h11 (keptRequests_ne_nil hr),
    fun hr => h12 (keptRequests_ne_nil hr), fun hr => h13 (keptRequests_ne_nil hr)⟩

theorem memoryWf_setPtab {s : State} (h : s.memoryWf) (i : BitVec 11) (v : Word) :
    ({ s with ptab := Memory.setWord s.ptab i.toNat v } : State).memoryWf :=
  store_memoryWf (g := .ptab i) h

theorem State.Inv.latchError {s : State} (h : s.Inv) (fch dma fat : Bool) (code : BitVec 5) (pa : PhysAddr) :
    (s.latchError fch dma fat code pa).Inv := by
  unfold State.latchError
  split
  · exact h
  · exact ⟨h.memory, h.settled, h.devices⟩

/-- The invariant is kept while an instruction runs and holds after it. -/
theorem steady_inv : Steady State.Inv State.Inv where
  reg := fun _ _ _ h => ⟨h.memory, h.settled, h.devices⟩
  sts := fun _ _ h => ⟨h.memory, h.settled, h.devices⟩
  free := fun _ _ h => ⟨h.memory, h.settled, h.devices⟩
  mem := fun _ pa _ h => ⟨store_memoryWf (g := .mem pa) h.memory, h.settled, h.devices⟩
  ptab := fun _ i _ h => ⟨store_memoryWf (g := .ptab i) h.memory, h.settled, h.devices⟩
  pgs := fun _ _ h => ⟨h.memory, h.settled, h.devices⟩
  latch := fun _ _ _ _ _ _ h => h.latchError _ _ _ _ _
  done := fun _ h => h
  take := fun _ c h => .selectLevel h.memory (devicesPend_postInternal h.devices c)
  withdraw := fun _ _ _ hs hu ht => ⟨⟨hs.memory.1, hu.memory.2⟩, ht.settled, ht.devices⟩

/-! ### Parts that only privileged instructions have -/

namespace Steady

variable {P Q : State → Prop} (S : Steady P Q)
include S

theorem next {s : State} (h : P s) : Holds Q (.next s) := holds_next (S.done s h)

theorem loadPhysical {delta : BitVec 3} {f : Word → State → State} {s : State} (hf : ∀ v u, P u → P (f v u))
    (h : P s) : Holds Q (Sys2Proof.Machine.loadPhysical delta f s) :=
  S.privileged h (holds_andThen (S.readPhys h) fun _ _ hu => S.next (S.advance (hf _ _ hu)))

theorem storePhysical {delta : BitVec 3} {v : Word} {s : State} (h : P s) :
    Holds Q (Sys2Proof.Machine.storePhysical delta v s) :=
  S.privileged h (holds_andThen (S.writePhys h) fun _ _ hu => S.next (S.advance hu))

theorem loadTable {r : Reg} {bank : Byte} {delta : BitVec 3} {s : State} (h : P s) :
    Holds Q (Sys2Proof.Machine.loadTable r bank delta s) :=
  S.privileged h (holds_andThen (S.readPhys h) fun _ _ hu => S.next (S.advance (S.reg _ _ _ hu)))

theorem storeTable {bank : Byte} {delta : BitVec 3} {v : Word} {s : State} (h : P s) :
    Holds Q (Sys2Proof.Machine.storeTable v bank delta s) :=
  S.privileged h (holds_andThen (S.writePhys h) fun _ _ hu => S.next (S.advance hu))

theorem resolveTx2 {kind : AccessKind} {delta : BitVec 3} {s : State} (h : P s) :
    (Sys2Proof.Machine.resolveTx2 kind delta s).Keeps P Q :=
  keeps_bind (S.resolvePhys h) fun _ _ hu => keeps_bind (S.resolvePhys hu) fun _ _ hw => keeps_ok hw

theorem walkList {element : Pass → State → Res Unit} {s : State} (hf : ∀ pass u, P u → (element pass u).Keeps P Q)
    (h : P s) : Holds Q (Sys2Proof.Machine.walkList (Sys2Proof.Machine.inOrder element) s) := by
  refine S.privileged h (holds_andThen (keeps_listLoop (fun u hu => S.inOrder hu fun pass => hf pass u hu) h)
    fun _ _ hu => ?_)
  split
  · exact S.next (S.advance hu)
  · exact S.next hu

theorem walkPolled {element : Pass → State → Res Unit} {s : State} (hf : ∀ pass u, P u → (element pass u).Keeps P Q)
    (h : P s) : Holds Q (Sys2Proof.Machine.walkPolled (Sys2Proof.Machine.inOrder element) s) := by
  refine S.privileged h (holds_andThen (keeps_pollLoop (fun u hu => S.inOrder hu fun pass => hf pass u hu) h)
    fun _ _ hu => ?_)
  split
  · exact S.next (S.advance hu)
  · exact S.next hu

theorem clearByBitmap {s : State} (h : P s) : Holds Q (Sys2Proof.Machine.clearByBitmap s) := by
  have fin (w : Word) {u : State} (hu : P u) : P (if u.cfg.cnrekLoadsA then u.setReg .a w else u) := by
    split
    · exact S.reg _ _ _ hu
    · exact hu
  refine holds_andThen (S.readPhys h) fun w u hu => ?_
  dsimp only
  split
  · exact S.next (S.advance (fin w hu))
  · exact holds_andThen (S.inOrder hu fun pass => keeps_mapRes (fun _ _ hv => S.clearByWord hv) hu) fun _ _ hv =>
      S.next (S.advance (fin w hv))

theorem insertPage {s : State} (h : P s) : Holds Q (Sys2Proof.Machine.insertPage s) :=
  holds_andThen (S.readPhys h) fun _ _ h1 => holds_andThen (S.resolvePhys h1) fun _ _ h2 =>
    holds_andThen (S.resolvePhys h2) fun _ _ h3 => holds_andThen (S.oldBackLink h3) fun _ _ h4 =>
      holds_andThen (S.resolvePhys h4) fun _ _ h5 => holds_andThen (S.resolvePhys h5) fun _ _ h6 =>
        holds_andThen (S.takeBackLink (S.store (S.store h6))) fun _ _ h7 => S.next (S.advance (S.store (S.store h7)))

theorem removePage {s : State} (h : P s) : Holds Q (Sys2Proof.Machine.removePage s) :=
  holds_andThen (S.readPhys h) fun _ _ h1 => holds_andThen (S.readPhys h1) fun _ _ h2 =>
    holds_andThen (S.resolvePhys h2) fun _ _ h3 => holds_andThen (S.successorLink h3) fun _ _ h4 =>
      holds_andThen (S.resolvePhys h4) fun _ _ h5 => holds_andThen (S.resolvePhys h5) fun _ _ h6 =>
        S.next (S.advance (S.store (S.store (S.storeList (S.store h6)))))

theorem resolveMove {kind : AccessKind} {space : MoveSpace} {hi lo : Word} {s : State} (h : P s) :
    (Sys2Proof.Machine.resolveMove kind space hi lo s).Keeps P Q := by
  cases space with
  | virt tbl => exact S.resolve h
  | phys => exact S.resolvePhys h

theorem moveOneWord {kind : MovewKind} {s : State} (h : P s) : (Sys2Proof.Machine.moveOneWord kind s).Keeps P Q :=
  keeps_bind (keeps_bind (S.resolveMove h) fun _ _ hu => S.load hu) fun _ _ hu =>
    keeps_bind (S.resolveMove hu) fun _ _ hw => keeps_ok (S.reg _ _ _ (S.guarded.stepAddress (S.guarded.stepAddress (S.store hw))))

theorem moveWords {kind : MovewKind} {s : State} (h : P s) : Holds Q (Sys2Proof.Machine.moveWords kind s) := by
  unfold Sys2Proof.Machine.moveWords
  split
  · exact S.next (S.advance h)
  · refine holds_andThen (keeps_repeatRes (fun _ hu => S.moveOneWord hu) h) fun _ _ hu => ?_
    split
    · exact S.next (S.advance hu)
    · exact S.next hu

end Steady

/-! ### What changes more than registers and memory -/

/-- IDENT on a level: the request served is withdrawn, and the PID bit cleared with the last. -/
theorem inv_identify {s : State} {l : Nat} {rs : List (BitVec 9)} {drop : List (BitVec 9) → State} (h : s.Inv)
    (hm : ∀ rest, (drop rest).memoryWf) (hd : rs ≠ [] → ∀ rest, (drop rest).devicesPend)
    (hc : ({ drop [] with pid := putBit (drop []).pid l false } : State).devicesPend) : (identify l rs drop s).Inv := by
  unfold identify
  split
  · exact h
  · next d rest =>
    dsimp only
    split
    · next hr =>
      subst hr
      exact .selectLevel (hm []) hc
    · exact .selectLevel (hm rest) (hd (List.cons_ne_nil _ _) rest)

theorem inv_ioTransfer {s : State} (addr : Word) (h : s.Inv) : (ioTransfer addr s).Inv := by
  have record {u : State} (d : Word) (b : Bool) (hu : u.Inv) : (u.recordTransfer addr d b).Inv :=
    ⟨hu.memory, hu.settled, hu.devices⟩
  unfold ioTransfer
  split
  · unfold ioOutput
    split
    · exact (record _ _ h).withdrawRequests
    · exact steady_inv.raiseAfter 7 (record _ _ h)
  · unfold ioInput
    split
    · exact (steady_inv.reg _ .a _ (record _ _ h)).withdrawRequests
    · exact steady_inv.raiseAfter 7 (steady_inv.reg _ .a _ (record _ _ (steady_inv.free _ _ h)))

theorem inv_fillOpen {mask w : Word} {s : State} (h : s.Inv) : (fillOpen mask w s).Keeps State.Inv State.Inv :=
  keeps_bind (steady_inv.fresh h) fun _ _ hu => keeps_ok hu

theorem inv_readLatched {w : Word} {s : State} (h : s.Inv) : (readLatched w s).Keeps State.Inv State.Inv := by
  unfold readLatched
  split
  · exact h
  · exact steady_inv.fresh h

theorem inv_readInternal {reg : BitVec 4} {s : State} (h : s.Inv) : (readInternal reg s).Keeps State.Inv State.Inv := by
  unfold readInternal
  split
  · unfold readPans
    dsimp only
    split
    · exact inv_fillOpen ⟨h.memory, h.settled, h.devices⟩
    · exact inv_fillOpen ⟨h.memory, h.settled, h.devices⟩
  · exact h
  · exact h
  · unfold readPgs
    dsimp only
    split
    · exact inv_fillOpen h
    · exact inv_fillOpen h
  · exact h
  · exact ⟨h.memory, h.settled, h.devices⟩
  · exact h
  · exact h
  · exact steady_inv.fresh h
  · exact h
  · exact h
  · exact inv_readLatched h
  · unfold readPgc
    dsimp only
    split
    · exact inv_fillOpen h
    · exact inv_fillOpen h
  · exact keeps_bind (inv_readLatched h) fun _ _ hu => keeps_ok ⟨hu.memory, hu.settled, hu.devices⟩
  · unfold readControl
    split
    · exact steady_inv.fresh h
    · exact h
  · exact keeps_stop holds_refused

theorem inv_writeInternal {reg : BitVec 4} {w : Word} {s : State} (h : s.Inv) :
    Holds State.Inv (writeInternal reg w s) := by
  unfold writeInternal
  split
  · exact holds_next ⟨h.memory, h.settled, h.devices⟩
  · exact holds_next (steady_inv.sts _ _ h)
  · exact holds_next ⟨h.memory, h.settled, h.devices⟩
  · exact holds_next ⟨h.memory, h.settled, h.devices⟩
  · exact holds_next ⟨h.memory, h.settled, h.devices⟩
  · exact holds_next (.selectLevel h.memory (devicesPend_setPid _ _))
  · exact holds_next (.selectLevel h.memory h.devices)
  · exact holds_next h
  · exact holds_next h
  · exact holds_next h
  · exact holds_next h
  · exact holds_next ⟨h.memory, h.settled, h.devices⟩
  · split
    · exact holds_refused
    · exact holds_next ⟨h.memory, h.settled, h.devices⟩
  · exact holds_refused

theorem inv_changeInternal {reg : BitVec 4} {f : Word → Word} {s : State} (h : s.Inv) :
    Holds State.Inv (changeInternal reg f s) := by
  unfold changeInternal
  split
  · exact holds_next (steady_inv.sts _ _ h)
  · exact holds_next (.selectLevel h.memory (devicesPend_setPid _ _))
  · exact holds_next (.selectLevel h.memory h.devices)
  · exact holds_refused

/-- Registers of other levels are no part of the invariant. -/
theorem State.Inv.setLevel {s : State} (h : s.Inv) (l : Level) (r : LevelRegs) : (s.setLevel l r).Inv :=
  ⟨h.memory, h.settled, h.devices⟩

theorem inv_waitState {s : State} (h : s.Inv) : (waitState s).Inv := by
  unfold waitState
  split
  · exact ⟨h.memory, h.settled, h.devices⟩
  · split
    · exact h
    · exact .selectLevel h.memory (devicesPend_setPid _ _)

/-- Without the interrupt system there is nothing to be settled. -/
theorem State.Inv.ofIoniOff {s : State} (hm : s.memoryWf) (hd : s.devicesPend) (h : s.ioni = false) : s.Inv :=
  ⟨hm, fun hon => absurd hon (by simp [h]), hd⟩

/-! ### All instructions -/

theorem inv_exec_mon {s : State} (n : BitVec 8) (h : s.Inv) : Holds State.Inv (exec (.mon n) s) :=
  holds_next (steady_inv.raiseAfter 1 (steady_inv.advance (h.setLevel _ _)))

theorem inv_exec_privileged {i : Instr} {s : State} (hi : isPrivileged i = true) (h : s.Inv) :
    Holds State.Inv (exec i s) := by
  have S := steady_inv
  have ha : s.advance.Inv := S.advance h
  obtain ⟨h10, h11, h12, h13⟩ := (devicesPend_iff _).1 ha.devices
  cases i with
  | chreentpages => exact S.privileged h holds_refused
  | setpt => exact S.walkList (fun _ _ hu => S.setptElement hu) h
  | clept => exact S.walkList (fun _ _ hu => S.cleptElement hu) h
  | clepu => exact S.walkList (fun _ _ hu => S.clepuElement hu) h
  | clpt => exact S.walkPolled (fun _ _ hu => S.clptElement hu) h
  | enpt | rept => exact S.walkPolled (fun _ _ hu => S.enterElement hu) h
  | cnrek | clnreent => exact S.privileged h (S.clearByBitmap h)
  | inspl => exact S.privileged h (S.insertPage h)
  | rempl => exact S.privileged h (S.removePage h)
  | depo => exact S.privileged h (holds_andThen (S.writePhys h) fun _ _ hu => S.next (S.advance hu))
  | exam | lbytp | rdusp =>
    exact S.privileged h (holds_andThen (S.readPhys h) fun _ _ hu => S.next (S.advance (S.reg _ _ _ hu)))
  | lbitp => exact S.privileged h (holds_andThen (S.readPhys h) fun _ _ hu => S.next (S.advance (S.flag _ _ hu)))
  | lbit => exact S.privileged h (holds_andThen (S.readVirt h) fun _ _ hu => S.next (S.advance (S.flag _ _ hu)))
  | sbit => exact S.privileged h (holds_andThen (S.modifyWord h) fun _ _ hu => S.next (S.advance hu))
  | sbitp | sbytp => exact S.privileged h (holds_andThen (S.modifyPhys h) fun _ _ hu => S.next (S.advance hu))
  | tsetp => exact S.privileged h (holds_andThen (S.modifyPhys h) fun _ _ hu => S.next (S.advance (S.reg _ _ _ hu)))
  | lasb d | lacb d | lxsb d | lxcb d => exact S.loadTable h
  | sasb d | sacb d | szsb d | szcb d => exact S.storeTable h
  | ldatx d | ldxtx d | ldbtx d => exact S.loadPhysical (fun _ _ hu => S.reg _ _ _ hu) h
  | statx d | stztx d => exact S.storePhysical h
  | lddtx d =>
    exact S.privileged h (holds_andThen (S.resolveTx2 h) fun _ _ h1 => holds_andThen (S.load h1) fun _ _ h2 =>
      holds_andThen (S.load h2) fun _ _ h3 => S.next (S.advance (S.reg _ _ _ (S.reg _ _ _ h3))))
  | stdtx d =>
    exact S.privileged h (holds_andThen (S.resolveTx2 h) fun _ _ hu => S.next (S.advance (S.store (S.store hu))))
  | movew kind =>
    show Holds State.Inv (execMovew kind s)
    unfold execMovew
    split
    · exact S.privileged h (S.moveWords h)
    · exact S.moveWords h
  | rglob => exact S.privileged h (S.next (S.advance (S.reg _ _ _ (S.reg _ _ _ (S.reg _ _ _ h)))))
  | irr l dr => exact S.privileged h (S.next (S.advance (S.reg _ _ _ h)))
  | irw l dr => exact S.privileged h (S.next (ha.setLevel _ _))
  | lrb l =>
    exact S.privileged h (holds_andThen (S.readList h) fun _ _ hu => S.next ((S.advance hu).setLevel _ _))
  | srb l => exact S.privileged h (holds_andThen (S.writeList h) fun _ _ hu => S.next (S.advance hu))
  | tra r =>
    exact S.privileged h (holds_andThen (inv_readInternal h) fun _ _ hu => S.next (S.advance (S.reg _ _ _ hu)))
  | trr r => exact S.privileged h (inv_writeInternal ha)
  | mcl r | mst r => exact S.privileged h (inv_changeInternal ha)
  | iox addr | ioxt => exact S.privileged h (S.next (inv_ioTransfer _ ha))
  | identPl10 =>
    refine S.privileged h (S.next (inv_identify ha (fun _ => ha.memory)
      (fun hr _ => (devicesPend_iff _).2 ⟨fun _ => h10 hr, h11, h12, h13⟩) ?_))
    exact (devicesPend_iff _).2 (by simpa [getElem_putBit] using And.intro h11 (And.intro h12 h13))
  | identPl11 =>
    refine S.privileged h (S.next (inv_identify ha (fun _ => ha.memory)
      (fun hr _ => (devicesPend_iff _).2 ⟨h10, fun _ => h11 hr, h12, h13⟩) ?_))
    exact (devicesPend_iff _).2 (by simpa [getElem_putBit] using And.intro h10 (And.intro h12 h13))
  | identPl12 =>
    refine S.privileged h (S.next (inv_identify ha (fun _ => ha.memory)
      (fun hr _ => (devicesPend_iff _).2 ⟨h10, h11, fun _ => h12 hr, h13⟩) ?_))
    exact (devicesPend_iff _).2 (by simpa [getElem_putBit] using And.intro h10 (And.intro h11 h13))
  | identPl13 =>
    refine S.privileged h (S.next (inv_identify ha (fun _ => ha.memory)
      (fun hr _ => (devicesPend_iff _).2 ⟨h10, h11, h12, fun _ => h13 hr⟩) ?_))
    exact (devicesPend_iff _).2 (by simpa [getElem_putBit] using And.intro h10 (And.intro h11 h12))
  | iof | piof => exact S.privileged h (S.next (.ofIoniOff ha.memory ha.devices rfl))
  | ion | pion => exact S.privileged h (S.next (.selectLevel ha.memory ha.devices))
  | wait n => exact S.privileged h (S.next (inv_waitState ha))
  | pof | pon | rex | sex | lwcs | opcom | wglob =>
    exact S.privileged h (S.next ⟨ha.memory, ha.settled, ha.devices⟩)
  | _ => cases hi

/-- Settles O6: level selection, the fetch and the instruction keep the invariant. -/
theorem stepKeepsInv : Obligations.StepKeepsInv := by
  intro s t hs
  exact steady_inv.guarded.step (fun _ _ hi h => inv_exec_privileged hi h) (fun n _ h => inv_exec_mon n h)
    (.selectLevel hs.memory hs.devices) t

end Sys2Proof.Machine
end

section
/-! PROOF. O12: what a program in user mode cannot change. `Confined s u` says it of the states inside a step; every
unprivileged instruction keeps it by `Guarded.exec`, as no access of ring 0 or 1 reaches the page tables. -/

namespace Sys2Proof.Machine

/-- `u` with the parts of `s` that a program in user mode can change, but for PID, IIC and the level. -/
def State.withUserParts (s u : State) : State :=
  { u with
    levels := s.levels, mem := s.mem, ptab := s.ptab, free := s.free, pgs := s.pgs, pes := s.pes, pea := s.pea
    peLocked := s.peLocked }

/-- The registers of the levels but that of `s` are those of `s`, but for T of level 14. -/
def State.levelsConfined (s u : State) : Prop :=
  ∀ l, l ≠ s.pil → (∀ r, (l ≠ 14 ∨ r ≠ .t) → (u.level l).get r = (s.level l).get r) ∧ (u.level l).sts = (s.level l).sts

/-- What a program in user mode has changed since `s`, before an interrupt. -/
structure State.Confined (s u : State) : Prop where
  special : s.withUserParts u = s
  levels : s.levelsConfined u
  wf : Memory.wf Memory.ptabBytes u.ptab = true
  bits : s.pageBitsOnly u

/-- What holds after a step of a program in user mode that began in `s`. -/
def State.Isolated (s t : State) : Prop :=
  (t.pcr = s.pcr ∧ t.pie = s.pie ∧ t.iie = s.iie ∧ t.ioni = s.ioni ∧ t.poni = s.poni ∧ t.sexi = s.sexi
      ∧ t.run = s.run ∧ t.eccr = s.eccr ∧ t.cs = s.cs ∧ t.stbnk = s.stbnk ∧ t.stsrt = s.stsrt ∧ t.cmbnk = s.cmbnk
      ∧ t.opr = s.opr ∧ t.lmp = s.lmp ∧ t.panel = s.panel ∧ t.ioHistory = s.ioHistory ∧ t.req10 = s.req10
      ∧ t.req11 = s.req11 ∧ t.req12 = s.req12 ∧ t.req13 = s.req13 ∧ t.badWords = s.badWords ∧ t.cfg = s.cfg)
    ∧ (t.pid = s.pid ∨ t.pid = putBit s.pid 14 true)
    ∧ (t.pil = s.pil ∨ t.pil = 14)
    ∧ s.levelsConfined t
    ∧ s.pageBitsOnly t

namespace State.Confined

variable {s u : State}

theorem refl (h : s.memoryWf) : s.Confined s := ⟨rfl, fun _ _ => ⟨fun _ _ => rfl, rfl⟩, h.2, fun _ => rfl⟩

theorem eq (h : s.Confined u) :
    u = { s with levels := u.levels, mem := u.mem, ptab := u.ptab, free := u.free, pgs := u.pgs, pes := u.pes, pea := u.pea,
                 peLocked := u.peLocked } := by
  have := h.special
  rw [← this]
  rfl

theorem pil (h : s.Confined u) : u.pil = s.pil := by rw [h.eq]

/-- The current level of `s` and T of level 14 are the program's. -/
theorem setLevel (h : s.Confined u) {l : Level} {r : LevelRegs}
    (hl : l = s.pil ∨ l = 14 ∧ (∀ c, c ≠ .t → r.get c = (u.level 14).get c) ∧ r.sts = (u.level 14).sts) :
    s.Confined (u.setLevel l r) := by
  refine ⟨h.special, fun k hk => ?_, h.wf, h.bits⟩
  by_cases hkl : k = l
  · subst hkl
    obtain ⟨rfl, hget, hsts⟩ := hl.resolve_left hk
    rw [State.level_setLevel_same, hsts]
    exact ⟨fun c hc => (hget c (hc.resolve_left (fun hne => hne rfl))).trans ((h.levels _ hk).1 c hc), (h.levels _ hk).2⟩
  · rw [State.level_setLevel_ne _ _ hkl]
    exact h.levels k hk

theorem accessed {v : State} (h : s.Confined u) (ha : u.Accessed v) : s.Confined v := by
  obtain ⟨hwf, hbits⟩ := ha.bits h.wf
  refine ⟨?_, fun l hl => ?_, hwf, fun i => (hbits i).trans (h.bits i)⟩
  · rw [ha.eq]
    exact h.special
  · rw [ha.level l]
    exact h.levels l hl

theorem latchError (h : s.Confined u) (fch dma fat : Bool) (code : BitVec 5) (pa : PhysAddr) :
    s.Confined (u.latchError fch dma fat code pa) := by
  unfold State.latchError
  split
  · exact h
  · exact ⟨h.special, h.levels, h.wf, h.bits⟩

theorem latchMemoryError (h : s.Confined u) (kind : AccessKind) (pa : PhysAddr) :
    s.Confined (u.latchMemoryError kind pa) := by
  unfold State.latchMemoryError
  split
  · exact h
  · exact latchError (u := { u with free := u.free + 1 }) ⟨h.special, h.levels, h.wf, h.bits⟩ _ _ _ _ _

theorem done (h : s.Confined u) : s.Isolated u := by
  have e := h.eq
  refine ⟨?_, .inl (by rw [e]), .inl h.pil, h.levels, h.bits⟩
  rw [e]
  exact ⟨rfl, rfl, rfl, rfl, rfl, rfl, rfl, rfl, rfl, rfl, rfl, rfl, rfl, rfl, rfl, rfl, rfl, rfl, rfl, rfl, rfl, rfl⟩

/-- An internal interrupt sets PID bit 14 and selects no level but 14. -/
theorem take (h : s.Confined u) (hs : s.Inv) (c : BitVec 4) : s.Isolated (u.takeInternal c) := by
  have e := h.eq
  have settled : u.settled := by
    rw [e]
    exact hs.settled
  obtain ⟨special, -, -, levels, bits⟩ := h.done
  have pid : putBit u.pid 14 true = putBit s.pid 14 true := by rw [e]
  by_cases hc : u.ioni = true ∧ u.pie.getLsbD 14 = true ∧ u.pil < 14
  · obtain ⟨h1, h2, h3⟩ := hc
    rw [takeInternal_of_canEnter14 settled c h1 h2 h3]
    exact ⟨special, .inr pid, .inr rfl, levels, bits⟩
  · rw [takeInternal_of_not_canEnter14 settled c hc]
    exact ⟨special, .inr pid, .inl h.pil, levels, bits⟩

theorem raiseAbort (h : s.Confined u) (hs : s.Inv) (c : BitVec 4) :
    Holds s.Isolated (Sys2Proof.Machine.raiseAbort c u) := by
  unfold Sys2Proof.Machine.raiseAbort
  split
  · exact holds_next (h.take hs c)
  · exact holds_refused

theorem userMode (h : s.Confined u) : u.userMode = s.userMode := by rw [h.eq]; rfl

end State.Confined

/-- What no virtual access of ring 0 or 1 reaches. -/
def Target.isMemory (g : Target) : Prop := ∀ i, g ≠ .ptab i

theorem confined_resolveMemory {s u : State} {kind : AccessKind} {pa : PhysAddr} (hs : s.Inv) (h : s.Confined u) :
    (resolveMemory kind pa u).Gives Target.isMemory s.Confined s.Isolated := by
  unfold resolveMemory
  split
  · split
    · exact ⟨fun _ hi => Target.noConfusion hi, h⟩
    · split
      · exact (h.latchError _ _ _ _ _).raiseAbort hs _
      · exact ⟨fun _ hi => Target.noConfusion hi, h⟩
  · split
    · exact (h.latchMemoryError _ _).raiseAbort hs _
    · exact ⟨fun _ hi => Target.noConfusion hi, h⟩

theorem userMode_iff (s : State) : s.userMode = true ↔ s.poni = true ∧ s.curPcr.ring < 2 := by
  simp [State.userMode]

/-- In user mode a virtual access is translated: only ring 3 reaches the page tables. -/
theorem confined_resolve {s u : State} {kind : AccessKind} {tbl : Table} {va : Word} (hs : s.Inv)
    (hu : s.userMode = true) (h : s.Confined u) :
    (resolve kind tbl va u).Gives Target.isMemory s.Confined s.Isolated := by
  obtain ⟨hon, hring⟩ := (userMode_iff u).1 (h.userMode.trans hu)
  have hne : u.curPcr.ring ≠ 3 := fun h3 => absurd hring (by rw [h3]; decide)
  unfold resolve
  rw [if_neg (by simp [hon]), if_neg (by rw [decide_eq_false hne]; simp)]
  cases ht : translate kind tbl va u with
  | ok pa v => exact confined_resolveMemory hs (h.accessed (translate_accessed hon ht))
  | stop o =>
    unfold translate at ht
    dsimp only at ht
    split at ht
    · cases ht
    all_goals
      cases ht
      refine State.Confined.raiseAbort ?_ hs _
      exact ⟨h.special, h.levels, h.wf, h.bits⟩

theorem guarded_confined {s : State} (hs : s.Inv) (hu : s.userMode = true) :
    Guarded Target.isMemory s.Confined s.Isolated where
  reg := fun _ _ _ h => h.setLevel (.inl h.pil)
  sts := fun _ _ h => h.setLevel (.inl h.pil)
  free := fun _ _ h => ⟨h.special, h.levels, h.wf, h.bits⟩
  resolve := fun _ _ _ _ h => confined_resolve hs hu h
  store := fun g _ _ hg h => by
    cases g with
    | mem pa => exact ⟨h.special, h.levels, h.wf, h.bits⟩
    | ptab i => exact absurd rfl (hg i)
    | absent => exact h
  done := fun _ h => h.done
  take := fun _ c h => h.take hs c
  withdraw := fun _ _ _ hs hu ht => ⟨ht.1, ht.2.1, ht.2.2.1, hs.levels, hu.bits⟩

/-- MON writes T of level 14 and raises code 1. -/
theorem confined_exec_mon {s u : State} (n : BitVec 8) (hs : s.Inv) (hu : s.userMode = true) (h : s.Confined u) :
    Holds s.Isolated (exec (.mon n) u) := by
  have G := guarded_confined hs hu
  refine holds_next (G.raiseAfter 1 (G.advance (h.setLevel (.inr ⟨rfl, fun c hc => ?_, rfl⟩))))
  cases c with
  | t => exact absurd rfl hc
  | _ => rfl

theorem confined_exec_privileged {i : Instr} {s u : State} (hi : isPrivileged i = true) (hs : s.Inv)
    (hu : s.userMode = true) (h : s.Confined u) : Holds s.Isolated (exec i u) := by
  obtain ⟨hon, hring⟩ := (userMode_iff u).1 (h.userMode.trans hu)
  rw [privilegedInUserMode i u hi hon hring]
  exact h.raiseAbort hs 6

/-- Settles O12: the fetch and the instruction leave `Confined` or `Isolated` what they find. -/
theorem userModeIsolation : Obligations.UserModeIsolation := by
  intro s t hs hu ht
  have hsel : s.selectLevel = s := selectLevel_of_settled hs.settled
  have hstart : s.Confined s.selectLevel := by
    rw [hsel]
    exact .refl hs.memory
  have isolated : s.Isolated t :=
    (guarded_confined hs hu).step (fun _ _ hi h => confined_exec_privileged hi hs hu h)
      (fun n _ h => confined_exec_mon n hs hu h) hstart t ht
  obtain ⟨special, pid, pil, levels, bits⟩ := isolated
  exact ⟨special, pid, pil, fun l hl => (levels l hl).1, fun l hl => (levels l hl).2, bits⟩

end Sys2Proof.Machine
end

section
/-! PROOF. The rules that the proofs of the instructions share: what an update of a register, a flag or a word does to a frame
and to the registers, and how an instruction that begins with accesses ends with one that is refused. -/

namespace Sys2Proof.Machine

/-! ### Frames that list enough -/

theorem State.Frame.setRegIn {rs : List Reg} {fs : List Flag} {gs : List Target} {s t : State} (h : s.Frame rs fs gs t)
    {c : Reg} (v : Word) (hc : c ∈ rs) : s.Frame rs fs gs (t.setReg c v) :=
  (h.setReg c v).weaken (by simpa using hc) (List.Subset.refl _) (List.Subset.refl _)

theorem State.Frame.setFlagIn {rs : List Reg} {fs : List Flag} {gs : List Target} {s t : State} (h : s.Frame rs fs gs t)
    {f : Flag} (b : Bool) (hf : f ∈ fs) : s.Frame rs fs gs (t.setFlag f b) :=
  (h.trans (t.frame_setFlag f b)).weaken (by simp) (by simpa using hf) (by simp)

theorem State.Frame.advanceIn {rs : List Reg} {fs : List Flag} {gs : List Target} {s t : State} (h : s.Frame rs fs gs t)
    (hp : Reg.p ∈ rs) : s.Frame rs fs gs t.advance := h.setRegIn _ hp

theorem State.Frame.skipIn {rs : List Reg} {fs : List Flag} {gs : List Target} {s t : State} (h : s.Frame rs fs gs t)
    (hp : Reg.p ∈ rs) : s.Frame rs fs gs t.skip := h.setRegIn _ hp

theorem State.Frame.jumpIn {rs : List Reg} {fs : List Flag} {gs : List Target} {s t : State} (h : s.Frame rs fs gs t)
    (a : Word) (hp : Reg.p ∈ rs) : s.Frame rs fs gs (t.jump a) := h.setRegIn a hp

theorem State.Frame.storeIn {rs : List Reg} {fs : List Flag} {gs : List Target} {s t : State} (h : s.Frame rs fs gs t)
    (ht : t.memoryWf) {g : Target} (v : Word) (hg : g ∈ gs) : s.Frame rs fs gs (store g v t) :=
  (h.trans (frame_store g v ht)).weaken (by simp) (by simp) (by simpa using hg)

theorem State.Frame.setFree {rs : List Reg} {fs : List Flag} {gs : List Target} {s t : State} (h : s.Frame rs fs gs t)
    (n : Nat) : s.Frame rs fs gs { t with free := n } :=
  ⟨h.regs, h.flags, h.levels, h.special, h.mem, h.ptabOff, h.ptabOn⟩

theorem State.Frame.accessed {rs : List Reg} {fs : List Flag} {gs : List Target} {s t u : State} (h : s.Frame rs fs gs t)
    (ht : t.memoryWf) (ha : t.Accessed u) : s.Frame rs fs gs u := by
  simpa using h.trans (ha.frame ht [] [])

/-- Accesses alone are within any frame. -/
theorem State.Accessed.frameIn {s t : State} (h : s.Accessed t) (hw : s.memoryWf) (rs : List Reg) (fs : List Flag)
    (gs : List Target) : s.Frame rs fs gs t :=
  (h.frame hw rs fs).weaken (List.Subset.refl _) (List.Subset.refl _) (List.nil_subset _)

theorem State.Frame.adderIn {rs : List Reg} {fs : List Flag} {gs : List Target} {s t : State} (h : s.Frame rs fs gs t)
    (x y : Word) (c : Bool) (hc : Flag.c ∈ fs) (hq : Flag.q ∈ fs) (ho : Flag.o ∈ fs) :
    s.Frame rs fs gs (t.setAdderFlags x y c) :=
  ((h.setFlagIn _ hc).setFlagIn _ hq).setFlagIn _ ho

/-! ### Registers and flags after the updates -/

theorem State.reg_advance_eq (s : State) (c : Reg) : s.advance.reg c = if c = .p then s.reg .p + 1 else s.reg c :=
  s.reg_setReg _ _ _

theorem State.reg_skip_eq (s : State) (c : Reg) : s.skip.reg c = if c = .p then s.reg .p + 2 else s.reg c :=
  s.reg_setReg _ _ _

theorem State.reg_jump_eq (s : State) (a : Word) (c : Reg) : (s.jump a).reg c = if c = .p then a else s.reg c :=
  s.reg_setReg _ _ _

@[simp] theorem reg_setFree (s : State) (n : Nat) (c : Reg) : ({ s with free := n } : State).reg c = s.reg c := rfl

@[simp] theorem flag_setFree (s : State) (n : Nat) (f : Flag) : ({ s with free := n } : State).flag f = s.flag f := rfl

@[simp] theorem flag_store (g : Target) (v : Word) (s : State) (f : Flag) : (store g v s).flag f = s.flag f := by
  cases g <;> rfl

@[simp] theorem wordAt_setReg (s : State) (c : Reg) (v : Word) (g : Target) : (s.setReg c v).wordAt g = s.wordAt g := by
  cases g <;> rfl

@[simp] theorem wordAt_setFlag (s : State) (f : Flag) (b : Bool) (g : Target) : (s.setFlag f b).wordAt g = s.wordAt g := by
  cases g <;> rfl

@[simp] theorem wordAt_skip (s : State) (g : Target) : s.skip.wordAt g = s.wordAt g := by
  cases g <;> rfl

@[simp] theorem wordAt_jump (s : State) (a : Word) (g : Target) : (s.jump a).wordAt g = s.wordAt g := by
  cases g <;> rfl

@[simp] theorem State.reg_setAdderFlags (s : State) (x y : Word) (cin : Bool) (c : Reg) :
    (s.setAdderFlags x y cin).reg c = s.reg c := by
  simp [State.setAdderFlags, State.setOverflow]

theorem State.flag_setOverflow (s : State) (b : Bool) (f : Flag) :
    (s.setOverflow b).flag f = if f = .o then s.flag .o || b else if f = .q then b else s.flag f := by
  simp only [State.setOverflow, State.flag_setFlag]

theorem State.flag_setAdderFlags (s : State) (x y : Word) (cin : Bool) (f : Flag) :
    (s.setAdderFlags x y cin).flag f = if f = .o then s.flag .o || adderOverflow x y cin
      else if f = .q then adderOverflow x y cin else if f = .c then adderCarry x y cin else s.flag f := by
  simp [State.setAdderFlags, State.flag_setOverflow, State.flag_setFlag]

theorem State.pc_eq (s : State) : s.pc = s.reg .p := rfl

theorem State.dataTable_eq (s : State) : s.dataTable = if s.flag .ptm then .apt else .pt := rfl

theorem State.Accessed.dataTable {s t : State} (h : s.Accessed t) : t.dataTable = s.dataTable := by
  rw [State.dataTable_eq, State.dataTable_eq, h.flag]

theorem State.Accessed.cfg {s t : State} (h : s.Accessed t) : t.cfg = s.cfg := by rw [h.eq]

theorem State.Accessed.userMode {s t : State} (h : s.Accessed t) : t.userMode = s.userMode := by rw [h.eq]; rfl

/-! ### Instructions that begin with accesses -/

theorem Res.bind_andThen {α β : Type} (r : Res α) (f : α → State → Res β) (k : β → State → Out) :
    (r.bind f).andThen k = r.andThen fun a u => (f a u).andThen k := by
  cases r <;> rfl

/-- An instruction ends with the access that is refused, if it begins with accesses that stop where these do. -/
theorem Res.ends_of_andThen {α β : Type} {accesses : Res α} {r : Res β} {k : β → State → Out} {i : Instr} {s : State}
    (hr : accesses.Refuses s) (hexec : exec i s = r.andThen k) (hstop : ∀ o, accesses = .stop o → r = .stop o) :
    accesses.Ends i s :=
  fun o ho => ⟨by rw [hexec, hstop o ho, Res.andThen_stop], hr.stop o ho⟩

/-- Parts that go on differently stop together if one goes on only where the other does. -/
theorem Res.bind_stop_of {α β γ : Type} {r : Res α} {f : α → State → Res β} {g : α → State → Res γ} {o : Out}
    (hfg : ∀ a u, f a u = .stop o → g a u = .stop o) (h : r.bind f = .stop o) : r.bind g = .stop o := by
  cases r with
  | ok a u => exact hfg a u h
  | stop p => cases h; rfl

theorem Res.bind_of_stop {α β : Type} {r : Res α} {f : α → State → Res β} {o : Out} (h : r = .stop o) :
    r.bind f = .stop o := by
  rw [h, Res.bind_stop]

end Sys2Proof.Machine
end

section
/-! PROOF. Addresses and accesses: the addressing modes (O13), accesses with paging off and the latch of memory errors (O14),
reading after writing (O16). -/

namespace Sys2Proof.Machine

/-! ### Effective addresses -/

theorem effAddr_direct {m : MemOperand} (s : State) (h : m.i = false) : effAddr m s = .ok (directPlace m s) s := by
  rw [effAddr, if_neg (by simp [h])]

theorem effAddr_indirect {m : MemOperand} (s : State) (h : m.i = true) :
    effAddr m s = (readVirt (pointerTable m s) (baseAddress m s) s).bind fun ptr s =>
      .ok { addr := ptr + (if m.x then s.reg .x else 0), tbl := s.dataTable } s := by
  rw [effAddr, if_pos h]

theorem directPlace_addr (m : MemOperand) (s : State) :
    (directPlace m s).addr = match m.x, m.b with
      | false, false => s.reg .p + m.disp.signExtend 16
      | false, true => s.reg .b + m.disp.signExtend 16
      | true, false => s.reg .x + m.disp.signExtend 16
      | true, true => s.reg .b + s.reg .x + m.disp.signExtend 16 := by
  unfold directPlace
  cases m.x <;> cases m.b <;> rfl

theorem directPlace_tbl (m : MemOperand) (s : State) :
    (directPlace m s).tbl = if (m.b || m.x) && s.flag .ptm then .apt else .pt := by
  unfold directPlace
  cases m.x <;> cases m.b <;> simp [State.dataTable_eq]

/-- Settles O13: the modes without indirection by `directPlace`, the others by the address word read. -/
theorem effectiveAddress : Obligations.EffectiveAddress := by
  intro m s u p h
  refine ⟨effAddr_accessed h, fun hi => ?_, fun hi => ?_⟩
  · rw [effAddr_direct s hi] at h
    cases h
    exact ⟨rfl, directPlace_addr m s, directPlace_tbl m s⟩
  · rw [effAddr_indirect s hi] at h
    obtain ⟨ptr, v, hptr, hp⟩ := Res.bind_eq_ok h
    have acc : s.Accessed v := readVirt_accessed hptr
    cases hp
    refine ⟨⟨ptr, ?_, ?_⟩, ?_⟩
    · rw [← hptr]
      congr 1
      unfold pointerTable
      cases m.b <;> simp [State.dataTable_eq]
    · simp [acc.reg]
    · rw [acc.dataTable, State.dataTable_eq]

/-! ### Paging off -/

theorem physAddr_zero (a : Word) : physAddr 0 a = BitVec.ofNat 24 a.toNat := by
  have := a.isLt
  refine BitVec.eq_of_toNat_eq ((BitVec.toNat_append _ _).trans ?_)
  rw [BitVec.toNat_ofNat, show BitVec.toNat (0 : Byte) = 0 from rfl, Nat.zero_shiftLeft, Nat.zero_or]
  omega

theorem tableIndex_of_le {a : Word} (h : 0o174000 ≤ a.toNat) : tableIndex a = BitVec.ofNat 11 (a.toNat - 0o174000) := by
  have := a.isLt
  refine BitVec.eq_of_toNat_eq ?_
  simp [tableIndex]
  omega

theorem inTableRange_iff (mode : PtMode) (a : Word) : inTableRange mode a = true
    ↔ (mode = .sixteen ∧ 0o174000 ≤ a.toNat) ∨ (mode = .four ∧ 0o177000 ≤ a.toNat) := by
  cases mode <;> simp [inTableRange, BitVec.le_def]

theorem memExists_iff (cfg : Config) (pa : PhysAddr) :
    Config.memExists cfg pa = true ↔ ∃ r ∈ cfg.memMap, r.base ≤ pa.toNat ∧ pa.toNat < r.base + r.size := by
  simp [Config.memExists]

theorem badWord_eq (s : State) (kind : AccessKind) (pa : PhysAddr) :
    s.badWord kind pa = s.badWords.find? fun w => w.addr.toNat = pa.toNat ∧ w.kind = kind := by
  unfold State.badWord
  congr 1
  funext w
  rw [Bool.eq_iff_iff]
  simp [← BitVec.toNat_inj]

theorem parityEnabled_iff (s : State) : s.parityEnabled = true ↔ s.iie.getLsbD 8 = true ∧ s.eccr.getLsbD 3 = false := by
  rw [State.parityEnabled, State.interruptEnabled, Bool.and_eq_true, Bool.not_eq_true']
  rfl

theorem resolve_pagingOff {kind : AccessKind} {tbl : Table} {a : Word} {s : State} (h : s.poni = false) :
    resolve kind tbl a s = if inTableRange s.cfg.ptMode a = true then .ok (.ptab (tableIndex a)) s
      else resolveMemory kind (BitVec.ofNat 24 a.toNat) s := by
  rw [resolve, if_pos h, resolvePhys, bankOf_physAddr, offsetOf_physAddr, physAddr_zero]
  simp

theorem latchError_eq {s : State} (h : s.peLocked = false) (fch dma fat : Bool) (code : BitVec 5) (pa : PhysAddr) :
    s.latchError fch dma fat code pa = { s with
      pes := BitVec.ofBool fch ++ BitVec.ofBool dma ++ BitVec.ofBool fat ++ code ++ bankOf pa
      pea := offsetOf pa
      peLocked := true } := by
  rw [State.latchError, if_neg (by simp [h])]

/-- The bits of the PES word that a memory error leaves (R43). -/
theorem getLsbD_pesWord (fch dma fat : Bool) (code : BitVec 5) (bank : Byte) (i : Nat) :
    (BitVec.ofBool fch ++ BitVec.ofBool dma ++ BitVec.ofBool fat ++ code ++ bank : Word).getLsbD i
      = if i < 8 then bank.getLsbD i
        else if i - 8 < 5 then code.getLsbD (i - 8)
        else (BitVec.ofBool fch ++ BitVec.ofBool dma ++ BitVec.ofBool fat : BitVec 3).getLsbD (i - 8 - 5) := by
  refine BitVec.getLsbD_append.trans ?_
  congr 1
  exact BitVec.getLsbD_append

theorem pesWord_fields (fch dma fat : Bool) (code : BitVec 5) (bank : Byte) :
    let w : Word := BitVec.ofBool fch ++ BitVec.ofBool dma ++ BitVec.ofBool fat ++ code ++ bank
    w.extractLsb' 0 8 = bank ∧ w.extractLsb' 8 5 = code ∧ w.getLsbD 13 = fat ∧ w.getLsbD 14 = dma
      ∧ w.getLsbD 15 = fch := by
  refine ⟨BitVec.eq_of_getLsbD_eq fun i hi => ?_, BitVec.eq_of_getLsbD_eq fun i hi => ?_, ?_, ?_, ?_⟩
  · rw [BitVec.getLsbD_extractLsb', getLsbD_pesWord]
    simp [hi]
  · rw [BitVec.getLsbD_extractLsb', getLsbD_pesWord]
    simp [hi]
  all_goals
    rw [getLsbD_pesWord]
    cases fch <;> cases dma <;> cases fat <;> rfl

/-- Settles O14: the cases of `resolveMemory` in their order, and the fields of the latch. -/
theorem pagingOff : Obligations.PagingOff := by
  refine ⟨fun kind tbl a s hoff => ?_, fun kind pa s => ⟨fun hl => ?_, fun hl => ?_⟩,
    fun fch dma fat code pa s => ⟨fun hl => ?_, fun hl => ?_⟩⟩
  · have ha : (BitVec.ofNat 24 a.toNat).toNat = a.toNat := by
      have := a.isLt
      rw [BitVec.toNat_ofNat]
      omega
    have exists_iff := memExists_iff s.cfg (BitVec.ofNat 24 a.toNat)
    rw [ha] at exists_iff
    rw [resolve_pagingOff hoff]
    by_cases hr : inTableRange s.cfg.ptMode a = true
    · rw [if_pos hr, if_pos ((inTableRange_iff _ _).1 hr), tableIndex_of_le]
      rcases (inTableRange_iff _ _).1 hr with ⟨-, h⟩ | ⟨-, h⟩ <;> omega
    · rw [if_neg hr, if_neg (fun h => hr ((inTableRange_iff _ _).2 h)), resolveMemory, badWord_eq, ha]
      simp only [exists_iff, parityEnabled_iff]
      rfl
  · rw [State.latchMemoryError, if_pos hl]
  · rw [State.latchMemoryError, if_neg (by simp [hl])]
    obtain ⟨hpa, -, -, hdma, hfch⟩ := pesWord_fields (kind == .fetch) false ((Config.freeWord s.free).getLsbD 5)
      ((Config.freeWord s.free).extractLsb' 0 5) (bankOf pa)
    exact ⟨_, _, latchError_eq (s := { s with free := s.free + 1 }) hl _ _ _ _ _, hpa, hfch, hdma⟩
  · rw [State.latchError, if_pos hl]
  · obtain ⟨hpa, hcode, hfat, hdma, hfch⟩ := pesWord_fields fch dma fat code (bankOf pa)
    exact ⟨_, latchError_eq hl _ _ _ _ _, hpa, hcode, hfat, hdma, hfch⟩

/-! ### Reading after writing -/

/-- A store changes the word at no other target. -/
theorem wordAt_store_ne {g h : Target} (v : Word) {s : State} (hw : s.memoryWf) (hne : h ≠ g) :
    (store g v s).wordAt h = s.wordAt h := by
  cases g with
  | mem pa =>
    cases h with
    | mem pb =>
      have hp : 2 * pa.toNat + 1 < Memory.physBytes := by
        have := pa.isLt; unfold Memory.physBytes; omega
      have : pb.toNat ≠ pa.toNat := fun e => hne (by rw [BitVec.eq_of_toNat_eq e])
      simp [State.wordAt, store, Memory.word_setWord hw.1 hp, this]
    | ptab j => rfl
    | absent => rfl
  | ptab i =>
    cases h with
    | mem pb => rfl
    | ptab j =>
      have hp : 2 * i.toNat + 1 < Memory.ptabBytes := by
        have := i.isLt; unfold Memory.ptabBytes; omega
      have : j.toNat ≠ i.toNat := fun e => hne (by rw [BitVec.eq_of_toNat_eq e])
      simp [State.wordAt, store, Memory.word_setWord hw.2 hp, this]
    | absent => rfl
  | absent => rfl

/-- Settles O16. -/
theorem readAfterWrite : Obligations.ReadAfterWrite :=
  fun _ _ v _ hw hg => ⟨store_memoryWf hw, wordAt_store v hw hg, fun hne => wordAt_store_ne v hw hne⟩

end Sys2Proof.Machine
end

section
/-! PROOF. Memory transfers: double words (O18), read and write of one word (O20), arithmetic on A (O21). -/

namespace Sys2Proof.Machine

theorem Res.andThen_congr {α : Type} {r : Res α} {k k' : α → State → Out} (h : ∀ a u, r = .ok a u → k a u = k' a u) :
    r.andThen k = r.andThen k' := by
  cases r with
  | ok a u => exact h a u rfl
  | stop o => rfl

/-! ### Targets of different addresses -/

/-- The low ten bits of the address at which a target lies, which translation does not change. -/
def Target.pageOffset (g : Target) : Option (BitVec 10) :=
  match g with
  | .mem pa => some (pa.extractLsb' 0 10)
  | .ptab i => some (i.extractLsb' 0 10)
  | .absent => none

theorem pageOffset_physTarget {kind : AccessKind} {pa : PhysAddr} {s t : State} {g : Target} (hg : g ≠ .absent)
    (h : resolvePhys kind pa s = .ok g t) : g.pageOffset = some (pa.extractLsb' 0 10) := by
  unfold resolvePhys at h
  split at h
  · cases h
    simp only [Target.pageOffset, tableIndex, offsetOf]
    congr 1
    refine BitVec.eq_of_getLsbD_eq fun i hi => ?_
    simp [hi]
  · obtain ⟨-, rfl | rfl⟩ := resolveMemory_ok h
    · rfl
    · exact absurd rfl hg

theorem pageOffset_resolve {kind : AccessKind} {tbl : Table} {va : Word} {s t : State} {g : Target} (hg : g ≠ .absent)
    (h : resolve kind tbl va s = .ok g t) : g.pageOffset = some (va.extractLsb' 0 10) := by
  unfold resolve at h
  split at h
  · rw [pageOffset_physTarget hg h]
    congr 1
    refine BitVec.eq_of_getLsbD_eq fun i hi => ?_
    simp only [BitVec.getLsbD_extractLsb', Nat.zero_add]
    rw [getLsbD_physAddr, if_pos (by omega)]
  · split at h
    · cases h
      simp only [Target.pageOffset, tableIndex]
      congr 1
      refine BitVec.eq_of_getLsbD_eq fun i hi => ?_
      simp [hi]
    · obtain ⟨pa, u, h1, h2⟩ := Res.bind_eq_ok h
      obtain ⟨-, rfl | rfl⟩ := resolveMemory_ok h2
      · rw [Target.pageOffset, (translate_address h1).1]
      · exact absurd rfl hg

/-- Addresses with different low bits have different targets, whatever the tables map. -/
theorem target_ne_of_pageOffset {k k' : AccessKind} {tbl tbl' : Table} {a b : Word} {s s' t t' : State} {g h : Target}
    (hg : resolve k tbl a s = .ok g t) (hh : resolve k' tbl' b s' = .ok h t') (hne : g ≠ .absent)
    (hab : a.extractLsb' 0 10 ≠ b.extractLsb' 0 10) : g ≠ h := by
  rintro rfl
  have ha := pageOffset_resolve hne hg
  rw [pageOffset_resolve hne hh] at ha
  exact hab (Option.some.inj ha).symm

/-- The words of a double word lie at different offsets. -/
theorem offset_add_ne (a : Word) {d : Nat} (hd : 0 < d) (hd' : d < 1024) :
    a.extractLsb' 0 10 ≠ (a + BitVec.ofNat 16 d).extractLsb' 0 10 := by
  intro h
  have := congrArg BitVec.toNat h
  simp at this
  omega

/-! ### Double words -/

theorem execLdf_of_fp32 {m : MemOperand} {s : State} (h : s.cfg.fp48 = false) : exec (.ldf m) s = exec (.ldd m) s :=
  Res.andThen_congr fun p u hp => by
    rw [if_neg (by rw [(effAddr_accessed hp).cfg, h]; exact Bool.false_ne_true)]

theorem execLdf_of_fp48 {m : MemOperand} {s : State} (h : s.cfg.fp48 = true) :
    exec (.ldf m) s = (effAddr m s).andThen fun p s => (readThree p.tbl p.addr s).andThen fun v s =>
      .next (((s.setReg .t v.1).setReg .a v.2.1).setReg .d v.2.2).advance :=
  Res.andThen_congr fun p u hp => by rw [if_pos (by rw [(effAddr_accessed hp).cfg, h])]

theorem execStf_of_fp32 {m : MemOperand} {s : State} (h : s.cfg.fp48 = false) : exec (.stf m) s = exec (.std m) s :=
  Res.andThen_congr fun p u hp => by
    rw [if_neg (by rw [(effAddr_accessed hp).cfg, h]; exact Bool.false_ne_true)]

theorem execStf_of_fp48 {m : MemOperand} {s : State} (h : s.cfg.fp48 = true) :
    exec (.stf m) s = (effAddr m s).andThen fun p s =>
      (writeThree p.tbl p.addr (s.reg .t) (s.reg .a) (s.reg .d) s).andThen fun _ s => .next s.advance :=
  Res.andThen_congr fun p u hp => by rw [if_pos (by rw [(effAddr_accessed hp).cfg, h])]

/-- With the 32-bit format LDF and STF are the double word instructions too. -/
theorem exec_eq_ldd (m : MemOperand) (s : State) :
    ∀ i ∈ [Instr.ldd m] ++ (if s.cfg.fp48 then [] else [.ldf m]), exec i s = exec (.ldd m) s := by
  cases hf : s.cfg.fp48 with
  | true => simp
  | false => simp [execLdf_of_fp32 hf]

theorem exec_eq_std (m : MemOperand) (s : State) :
    ∀ i ∈ [Instr.std m] ++ (if s.cfg.fp48 then [] else [.stf m]), exec i s = exec (.std m) s := by
  cases hf : s.cfg.fp48 with
  | true => simp
  | false => simp [execStf_of_fp32 hf]

/-- Instructions that mean the same end alike. -/
theorem Res.Ends.congr {α : Type} {r : Res α} {i j : Instr} {s : State} (h : r.Ends j s) (he : exec i s = exec j s) :
    r.Ends i s := by
  intro o ho
  rw [he]
  exact h o ho

theorem effAddr_bind_refuses {α : Type} {m : MemOperand} {s : State} {k : Place → State → Res α}
    (h : ∀ p u, (k p u).Refuses u) : ((effAddr m s).bind k).Refuses s :=
  Res.refuses_bind (effAddr_refuses ..) (fun _ _ e => effAddr_accessed e) h

theorem ldd_ends (m : MemOperand) (s : State) : ((effAddr m s).bind fun p u => readTwo p.tbl p.addr u).Ends (.ldd m) s :=
  Res.ends_of_andThen (effAddr_bind_refuses fun _ _ => readTwo_refuses ..) (Res.bind_andThen ..).symm fun _ h => h

theorem ldf_ends {m : MemOperand} {s : State} (h : s.cfg.fp48 = true) :
    ((effAddr m s).bind fun p u => readThree p.tbl p.addr u).Ends (.ldf m) s :=
  Res.ends_of_andThen (effAddr_bind_refuses fun _ _ => readThree_refuses ..)
    ((execLdf_of_fp48 h).trans (Res.bind_andThen ..).symm) fun _ h => h

theorem std_ends (m : MemOperand) (s : State) :
    ((effAddr m s).bind fun p u => resolve2 .write p.tbl p.addr (p.addr + 1) u).Ends (.std m) s :=
  Res.ends_of_andThen (effAddr_bind_refuses fun _ _ => resolve2_refuses ..) (Res.bind_andThen ..).symm
    fun _ => Res.bind_stop_of fun _ _ h => Res.bind_of_stop h

theorem stf_ends {m : MemOperand} {s : State} (h : s.cfg.fp48 = true) :
    ((effAddr m s).bind fun p u => (resolve2 .write p.tbl p.addr (p.addr + 1) u).bind fun _ w =>
      resolve .write p.tbl (p.addr + 2) w).Ends (.stf m) s :=
  Res.ends_of_andThen
    (effAddr_bind_refuses fun _ _ =>
      Res.refuses_bind (resolve2_refuses ..) (fun _ _ e => resolve2_accessed e) fun _ _ => resolve_refuses ..)
    ((execStf_of_fp48 h).trans (Res.bind_andThen ..).symm)
    fun _ => Res.bind_stop_of fun _ _ => Res.bind_stop_of fun _ _ h => Res.bind_of_stop h

theorem exec_ldd_of_reads {m : MemOperand} {s u x : State} {p : Place} {v w : Word} (hw : s.memoryWf)
    (hp : effAddr m s = .ok p u) (hx : readTwo p.tbl p.addr u = .ok (v, w) x) :
    ∃ t, exec (.ldd m) s = .next t ∧ t.reg .a = v ∧ t.reg .d = w ∧ t.reg .p = s.reg .p + 1
      ∧ s.Frame [.a, .d, .p] [] [] t := by
  have acc : s.Accessed x := (effAddr_accessed hp).trans (readTwo_accessed hx)
  refine ⟨((x.setReg .a v).setReg .d w).advance, ?_, ?_, ?_, ?_, ?_⟩
  · show (effAddr m s).andThen _ = _
    rw [hp, Res.andThen_ok, hx, Res.andThen_ok]
  · simp [State.reg_advance_eq, State.reg_setReg]
  · simp [State.reg_advance_eq]
  · simp [State.reg_setReg, acc.reg]
  · exact (((acc.frame hw _ _).setRegIn _ (by simp)).setRegIn _ (by simp)).advanceIn (by simp)

theorem exec_ldf_of_reads {m : MemOperand} {s u x : State} {p : Place} {v w z : Word} (hw : s.memoryWf)
    (hf : s.cfg.fp48 = true) (hp : effAddr m s = .ok p u) (hx : readThree p.tbl p.addr u = .ok (v, w, z) x) :
    ∃ t, exec (.ldf m) s = .next t ∧ t.reg .t = v ∧ t.reg .a = w ∧ t.reg .d = z ∧ t.reg .p = s.reg .p + 1
      ∧ s.Frame [.t, .a, .d, .p] [] [] t := by
  have acc : s.Accessed x := (effAddr_accessed hp).trans (readThree_accessed hx)
  refine ⟨(((x.setReg .t v).setReg .a w).setReg .d z).advance, ?_, ?_, ?_, ?_, ?_, ?_⟩
  · rw [execLdf_of_fp48 hf, hp, Res.andThen_ok, hx, Res.andThen_ok]
  · simp [State.reg_advance_eq, State.reg_setReg]
  · simp [State.reg_advance_eq, State.reg_setReg]
  · simp [State.reg_advance_eq]
  · simp [State.reg_setReg, acc.reg]
  · exact ((((acc.frame hw _ _).setRegIn _ (by simp)).setRegIn _ (by simp)).setRegIn _ (by simp)).advanceIn (by simp)

theorem exec_std_of_writes {m : MemOperand} {s u w : State} {p : Place} {g h : Target} (hw : s.memoryWf)
    (hp : effAddr m s = .ok p u) (hgh : resolve2 .write p.tbl p.addr (p.addr + 1) u = .ok (g, h) w) :
    ∃ t, exec (.std m) s = .next t ∧ (g ≠ .absent → t.wordAt g = s.reg .a) ∧ (h ≠ .absent → t.wordAt h = s.reg .d)
      ∧ t.reg .p = s.reg .p + 1 ∧ s.Frame [.p] [] [g, h] t := by
  obtain ⟨g', u', hg, hrest⟩ := Res.bind_eq_ok hgh
  obtain ⟨h', w', hh, he⟩ := Res.bind_eq_ok hrest
  have accu : s.Accessed u := effAddr_accessed hp
  have acc : s.Accessed w := accu.trans (resolve2_accessed hgh)
  cases he
  have wf0 : w.memoryWf := acc.memoryWf hw
  have wf1 : (store g (s.reg .a) w).memoryWf := store_memoryWf wf0
  refine ⟨(store h (s.reg .d) (store g (s.reg .a) w)).advance, ?_, fun hne => ?_, fun hne => ?_, ?_, ?_⟩
  · show (effAddr m s).andThen _ = _
    rw [hp, Res.andThen_ok, writeTwo, hgh, accu.reg, accu.reg]
    rfl
  · rw [State.wordAt_advance, wordAt_store_ne _ wf1, wordAt_store _ wf0 hne]
    exact target_ne_of_pageOffset hg hh hne (offset_add_ne _ (d := 1) (by decide) (by decide))
  · rw [State.wordAt_advance, wordAt_store _ wf1 hne]
  · simp [acc.reg]
  · exact (((acc.frameIn hw _ _ _).storeIn wf0 _ (by simp)).storeIn wf1 _ (by simp)).advanceIn (by simp)

theorem exec_stf_of_writes {m : MemOperand} {s u w x : State} {p : Place} {g h k : Target} (hw : s.memoryWf)
    (hf : s.cfg.fp48 = true) (hp : effAddr m s = .ok p u)
    (hgh : resolve2 .write p.tbl p.addr (p.addr + 1) u = .ok (g, h) w)
    (hk : resolve .write p.tbl (p.addr + 2) w = .ok k x) :
    ∃ t, exec (.stf m) s = .next t ∧ (g ≠ .absent → t.wordAt g = s.reg .t) ∧ (h ≠ .absent → t.wordAt h = s.reg .a)
      ∧ (k ≠ .absent → t.wordAt k = s.reg .d) ∧ t.reg .p = s.reg .p + 1 ∧ s.Frame [.p] [] [g, h, k] t := by
  obtain ⟨g', u', hg, hrest⟩ := Res.bind_eq_ok hgh
  obtain ⟨h', w', hh, he⟩ := Res.bind_eq_ok hrest
  have accu : s.Accessed u := effAddr_accessed hp
  have acc : s.Accessed x := (accu.trans (resolve2_accessed hgh)).trans (resolve_accessed hk)
  cases he
  have wf0 : x.memoryWf := acc.memoryWf hw
  have wf1 : (store g (s.reg .t) x).memoryWf := store_memoryWf wf0
  have wf2 : (store h (s.reg .a) (store g (s.reg .t) x)).memoryWf := store_memoryWf wf1
  refine ⟨(store k (s.reg .d) (store h (s.reg .a) (store g (s.reg .t) x))).advance, ?_, fun hne => ?_, fun hne => ?_,
    fun hne => ?_, ?_, ?_⟩
  · rw [execStf_of_fp48 hf, hp, Res.andThen_ok, writeThree, hgh, Res.bind_ok, hk, accu.reg, accu.reg, accu.reg]
    rfl
  · rw [State.wordAt_advance, wordAt_store_ne _ wf2, wordAt_store_ne _ wf1, wordAt_store _ wf0 hne]
    · exact target_ne_of_pageOffset hg hh hne (offset_add_ne _ (d := 1) (by decide) (by decide))
    · exact target_ne_of_pageOffset hg hk hne (offset_add_ne _ (d := 2) (by decide) (by decide))
  · rw [State.wordAt_advance, wordAt_store_ne _ wf2, wordAt_store _ wf1 hne]
    refine target_ne_of_pageOffset hh hk hne ?_
    have := offset_add_ne (p.addr + 1) (d := 1) (by decide) (by decide)
    rwa [BitVec.add_assoc] at this
  · rw [State.wordAt_advance, wordAt_store _ wf2 hne]
  · simp [acc.reg]
  · exact ((((acc.frameIn hw _ _ _).storeIn wf0 _ (by simp)).storeIn wf1 _ (by simp)).storeIn wf2 _ (by simp)).advanceIn
      (by simp)

/-- Settles O18: the accesses go on to the registers or targets, or end the instruction. -/
theorem doubleWords : Obligations.DoubleWords := by
  refine ⟨fun m s u p hw hp => ⟨fun v w x hx i hi => ?_, fun hf v w z x hx => exec_ldf_of_reads hw hf hp hx⟩,
    fun m s => ⟨fun i hi => ?_, ldf_ends, fun i hi => ?_, stf_ends⟩,
    fun m s u w p g h hw hp hgh => ⟨fun i hi => ?_, fun hf k x hk => exec_stf_of_writes hw hf hp hgh hk⟩⟩
  · rw [exec_eq_ldd m s i hi]
    exact exec_ldd_of_reads hw hp hx
  · exact (ldd_ends m s).congr (exec_eq_ldd m s i hi)
  · exact (std_ends m s).congr (exec_eq_std m s i hi)
  · rw [exec_eq_std m s i hi]
    exact exec_std_of_writes hw hp hgh

/-! ### Reading and writing one word -/

/-- What the accesses of a read and write do, when they go on. -/
theorem modifyWord_of_modifies {tbl : Table} {a v : Word} {g : Target} {s : State} (f : Word → Word)
    (h : s.modifies tbl a v g) : ∃ w, modifyWord tbl a f s = .ok v (store g (f v) w) ∧ s.Accessed w := by
  obtain ⟨gr, u, w, hr, hg, rfl⟩ := h
  refine ⟨(peek gr w).2, ?_, ((resolve_accessed hr).trans (resolve_accessed hg)).trans (peek_accessed gr w)⟩
  rw [modifyWord, modifyIn, hr, Res.bind_ok, hg]
  rfl

theorem modifyWord_of_stop {tbl : Table} {a : Word} {s : State} {o : Out} (f : Word → Word)
    (h : ((resolve .read tbl a s).bind fun _ u => resolve .write tbl a u) = .stop o) : modifyWord tbl a f s = .stop o :=
  Res.bind_stop_of (fun _ _ h => Res.bind_of_stop h) h

theorem both_refuses (tbl : Table) (a : Word) (s : State) :
    ((resolve .read tbl a s).bind fun _ u => resolve .write tbl a u).Refuses s :=
  Res.refuses_bind (resolve_refuses ..) (fun _ _ e => resolve_accessed e) fun _ _ => resolve_refuses ..

/-- The bit number of a bit array's element (R443, D41). -/
theorem bitArrayBit_eq (s : State) : bitArrayBit s = match s.cfg.bitIndex with
    | .fromBit0 => (s.reg .a).toNat % 16
    | .fromBit15 => 15 - (s.reg .a).toNat % 16 := by
  unfold bitArrayBit bitPosition
  cases s.cfg.bitIndex <;> simp

theorem exec_min_of_modifies {m : MemOperand} {s u : State} {p : Place} {v : Word} {g : Target} (hw : s.memoryWf)
    (hp : effAddr m s = .ok p u) (hm : u.modifies p.tbl p.addr v g) :
    ∃ t, exec (.min m) s = .next t ∧ (g ≠ .absent → t.wordAt g = v + 1)
      ∧ t.reg .p = (if v = 0xFFFF then s.reg .p + 2 else s.reg .p + 1) ∧ s.Frame [.p] [] [g] t := by
  obtain ⟨w, hx, haw⟩ := modifyWord_of_modifies (· + 1) hm
  have acc : s.Accessed w := (effAddr_accessed hp).trans haw
  have wf : w.memoryWf := acc.memoryWf hw
  have frame : s.Frame [.p] [] [g] (store g (v + 1) w) := (acc.frameIn hw _ _ _).storeIn wf _ (by simp)
  have hzero : v + 1 = 0 ↔ v = 0xFFFF := by
    constructor
    · intro h
      rw [← BitVec.toNat_inj] at h ⊢
      simp at h ⊢
      omega
    · rintro rfl
      rfl
  refine ⟨if v + 1 = 0 then (store g (v + 1) w).skip else (store g (v + 1) w).advance, ?_, fun hne => ?_, ?_, ?_⟩
  · show (effAddr m s).andThen _ = _
    rw [hp, Res.andThen_ok, hx]
    rfl
  · split <;> simp [wordAt_store _ wf hne]
  · simp only [hzero]
    split <;> simp [acc.reg]
  · split
    · exact frame.skipIn (by simp)
    · exact frame.advanceIn (by simp)

theorem min_ends (m : MemOperand) (s : State) :
    ((effAddr m s).bind fun p u => (resolve .read p.tbl p.addr u).bind fun _ w =>
      resolve .write p.tbl p.addr w).Ends (.min m) s :=
  Res.ends_of_andThen (effAddr_bind_refuses fun _ _ => both_refuses ..) (Res.bind_andThen ..).symm
    fun _ => Res.bind_stop_of fun _ _ h => modifyWord_of_stop _ h

/-- A privileged instruction outside user mode that begins with these accesses. -/
theorem Res.ends_of_privileged {α β : Type} {accesses : Res α} {r : Res β} {k : β → State → Out} {i : Instr} {s : State}
    (hu : s.userMode = false) (hr : accesses.Refuses s) (hexec : exec i s = privileged s (r.andThen k))
    (hstop : ∀ o, accesses = .stop o → r = .stop o) : accesses.Ends i s :=
  Res.ends_of_andThen hr (hexec.trans (privileged_of_not_user _ hu)) hstop

/-- Settles O20. -/
theorem readModifyWrite : Obligations.ReadModifyWrite := by
  refine ⟨fun m s u p v g hw hp hm => exec_min_of_modifies hw hp hm, min_ends, fun s => ⟨?_, ?_, fun hu => ⟨?_, ?_⟩⟩,
    fun s hw => ⟨fun v u hu => ?_, fun v g hm => ?_⟩, fun s hw hu => ⟨fun v u hv => ?_, fun v g hm => ?_⟩⟩
  · exact Res.ends_of_andThen (readVirt_refuses ..) rfl fun _ h => h
  · exact Res.ends_of_andThen (both_refuses ..) rfl fun _ h => modifyWord_of_stop _ h
  · exact Res.ends_of_privileged hu (readVirt_refuses ..) rfl fun _ h => h
  · exact Res.ends_of_privileged hu (both_refuses ..) rfl fun _ h => modifyWord_of_stop _ h
  · have acc : s.Accessed u := readVirt_accessed hu
    refine ⟨(u.setReg .a v).advance, ?_, ?_, ?_, ((acc.frame hw _ _).setRegIn _ (by simp)).advanceIn (by simp)⟩
    · show (readVirt s.dataTable _ s).andThen _ = _
      rw [State.dataTable_eq, hu, Res.andThen_ok]
    · simp [State.reg_advance_eq]
    · simp [State.reg_setReg, acc.reg]
  · obtain ⟨w, hx, acc⟩ := modifyWord_of_modifies (fun _ => 0xFFFF) hm
    have wf : w.memoryWf := acc.memoryWf hw
    refine ⟨((store g 0xFFFF w).setReg .a v).advance, ?_, ?_, fun hne => ?_, ?_,
      (((acc.frameIn hw _ _ _).storeIn wf _ (by simp)).setRegIn _ (by simp)).advanceIn (by simp)⟩
    · show (modifyWord s.dataTable _ _ s).andThen _ = _
      rw [State.dataTable_eq, hx, Res.andThen_ok]
    · simp [State.reg_advance_eq]
    · simp [wordAt_store _ wf hne]
    · simp [State.reg_setReg, acc.reg]
  · have acc : s.Accessed u := readVirt_accessed hv
    refine ⟨(u.setFlag .k (v.getLsbD (bitArrayBit s))).advance, ?_, ?_, ?_,
      ((acc.frame hw _ _).setFlagIn _ (by simp)).advanceIn (by simp)⟩
    · show privileged s ((readVirt s.dataTable (bitArrayWord s) s).andThen _) = _
      rw [privileged_of_not_user _ hu, State.dataTable_eq, bitArrayWord, hv, Res.andThen_ok, bitArrayBit, bitArrayBit,
        acc.cfg, acc.reg]
    · rw [State.flag_advance, State.flag_setFlag_same]
      exact congrArg v.getLsbD (bitArrayBit_eq s)
    · simp [acc.reg]
  · obtain ⟨w, hx, acc⟩ := modifyWord_of_modifies (fun w => putBit w (bitArrayBit s) (s.flag .k)) hm
    have wf : w.memoryWf := acc.memoryWf hw
    refine ⟨(store g (putBit v (bitArrayBit s) (s.flag .k)) w).advance, ?_, fun hne => ?_, ?_,
      ((acc.frameIn hw _ _ _).storeIn wf _ (by simp)).advanceIn (by simp)⟩
    · show privileged s ((modifyWord s.dataTable (bitArrayWord s) _ s).andThen _) = _
      rw [privileged_of_not_user _ hu, State.dataTable_eq, bitArrayWord, hx, Res.andThen_ok]
    · rw [State.wordAt_advance, wordAt_store _ wf hne]
      exact congrArg (putBit v · (s.flag .k)) (bitArrayBit_eq s)
    · simp [acc.reg]

/-! ### The adder -/

/-- The bit that is added as a number. -/
theorem toNat_adderSum (x y : Word) (c : Bool) : (adderSum x y c).toNat = x.toNat + y.toNat + c.toNat := by
  have := x.isLt
  have := y.isLt
  have : c.toNat < 2 := Bool.toNat_lt c
  simp [adderSum]
  omega

theorem adderValue_eq (x y : Word) (c : Bool) : adderValue x y c = x + y + (if c then 1 else 0) := by
  refine BitVec.eq_of_toNat_eq ?_
  rw [adderValue, BitVec.toNat_setWidth, toNat_adderSum]
  cases c <;> simp

theorem adderCarry_eq (x y : Word) (c : Bool) : adderCarry x y c = decide (65536 ≤ x.toNat + y.toNat + c.toNat) := by
  have := x.isLt
  have := y.isLt
  have : c.toNat < 2 := Bool.toNat_lt c
  rw [adderCarry, BitVec.getLsbD, toNat_adderSum, Nat.testBit_eq_decide_div_mod_eq]
  simp only [decide_eq_decide]
  omega

/-- The overflow test on the signs is the test on the numbers, with or without a carry-in. -/
theorem adderOverflow_eq (x y : Word) (c : Bool) : adderOverflow x y c = outOfWord (x.toInt + y.toInt + c.toNat) := by
  have hx := x.isLt
  have hy := y.isLt
  have hc : c.toNat < 2 := Bool.toNat_lt c
  have hv : (adderValue x y c).toNat = (x.toNat + y.toNat + c.toNat) % 65536 := by
    rw [adderValue, BitVec.toNat_setWidth, toNat_adderSum]
  rw [adderOverflow, outOfWord, Bool.eq_iff_iff]
  simp only [BitVec.msb_eq_decide, BitVec.toInt_eq_toNat_cond, hv, Bool.and_eq_true, beq_iff_eq, bne_iff_ne, ne_eq,
    decide_eq_decide, Bool.or_eq_true, decide_eq_true_eq]
  split <;> split <;> omega

/-- An instruction on A and an operand word whose accesses go on. -/
theorem readOperand_andThen {m : MemOperand} {s : State} {v : Word} {k : Word → State → State} (h : s.reads m v) :
    ∃ u, s.Accessed u ∧ (readOperand m s).andThen (fun v u => .next (k v u)) = .next (k v u) := by
  obtain ⟨u, hu⟩ := h
  exact ⟨u, readOperand_accessed hu, by rw [hu, Res.andThen_ok]⟩

/-- A sum into A with its flags, as the adder sets them. -/
theorem addToA_advance {s u : State} (y : Word) (c : Bool) (hw : s.memoryWf) (acc : s.Accessed u) :
    let t := (u.addToA y c).advance
    t.reg .a = adderValue (s.reg .a) y c ∧ t.flag .c = adderCarry (s.reg .a) y c
      ∧ t.flag .q = adderOverflow (s.reg .a) y c ∧ t.flag .o = (s.flag .o || t.flag .q) ∧ t.reg .p = s.reg .p + 1
      ∧ s.Frame [.a, .p] [.c, .q, .o] [] t := by
  refine ⟨?_, ?_, ?_, ?_, ?_, ?_⟩
  · simp [State.addToA, State.reg_advance_eq, acc.reg]
  · simp [State.addToA, State.flag_setAdderFlags, acc.reg]
  · simp [State.addToA, State.flag_setAdderFlags, acc.reg]
  · simp [State.addToA, State.flag_setAdderFlags, acc.flag]
  · simp [State.addToA, State.reg_setReg, acc.reg]
  · exact (((acc.frame hw _ _).adderIn _ _ _ (by simp) (by simp) (by simp)).setRegIn _ (by simp)).advanceIn (by simp)

theorem toInt_not (v : Word) : (~~~v).toInt = -v.toInt - 1 := by
  rw [BitVec.toInt_not, Int.bmod_def]
  have := v.isLt
  rw [BitVec.toInt_eq_toNat_cond]
  split <;> omega

theorem toNat_not (v : Word) : (~~~v).toNat = 65535 - v.toNat := by simp

theorem exec_add_of_reads {m : MemOperand} {s : State} {v : Word} (hw : s.memoryWf) (h : s.reads m v) :
    ∃ t, exec (.add m) s = .next t ∧ t.reg .a = s.reg .a + v
      ∧ t.flag .c = decide (65536 ≤ (s.reg .a).toNat + v.toNat)
      ∧ t.flag .q = outOfWord ((s.reg .a).toInt + v.toInt) ∧ t.flag .o = (s.flag .o || t.flag .q)
      ∧ t.reg .p = s.reg .p + 1 ∧ s.Frame [.a, .p] [.c, .q, .o] [] t := by
  obtain ⟨u, acc, he⟩ := readOperand_andThen (k := fun v s => (s.addToA v false).advance) h
  obtain ⟨ha, hc, hq, ho, hp, frame⟩ := addToA_advance v false hw acc
  exact ⟨_, he, by simp [ha, adderValue_eq], by simp [hc, adderCarry_eq], by simp [hq, adderOverflow_eq], ho, hp, frame⟩

theorem exec_sub_of_reads {m : MemOperand} {s : State} {v : Word} (hw : s.memoryWf) (h : s.reads m v) :
    ∃ t, exec (.sub m) s = .next t ∧ t.reg .a = s.reg .a - v
      ∧ t.flag .c = decide (v.toNat ≤ (s.reg .a).toNat)
      ∧ t.flag .q = outOfWord ((s.reg .a).toInt - v.toInt) ∧ t.flag .o = (s.flag .o || t.flag .q)
      ∧ t.reg .p = s.reg .p + 1 ∧ s.Frame [.a, .p] [.c, .q, .o] [] t := by
  obtain ⟨u, acc, he⟩ := readOperand_andThen (k := fun v s => (s.addToA (~~~v) true).advance) h
  obtain ⟨ha, hc, hq, ho, hp, frame⟩ := addToA_advance (~~~v) true hw acc
  refine ⟨_, he, ?_, ?_, ?_, ho, hp, frame⟩
  · rw [ha, adderValue_eq, if_pos rfl, BitVec.sub_eq_add_neg, BitVec.neg_eq_not_add, BitVec.add_assoc]
    rfl
  · have := v.isLt
    rw [hc, adderCarry_eq, toNat_not, Bool.toNat_true, decide_eq_decide]
    omega
  · rw [hq, adderOverflow_eq, toInt_not, Bool.toNat_true]
    congr 1
    omega

theorem exec_mpy_of_reads {m : MemOperand} {s : State} {v : Word} (hw : s.memoryWf) (h : s.reads m v) :
    ∃ t, exec (.mpy m) s = .next t ∧ t.reg .a = s.reg .a * v
      ∧ t.flag .q = decide (32767 < ((s.reg .a).toInt * v.toInt).natAbs) ∧ t.flag .o = (s.flag .o || t.flag .q)
      ∧ t.reg .p = s.reg .p + 1 ∧ s.Frame [.a, .p] [.q, .o] [] t := by
  obtain ⟨u, acc, he⟩ := readOperand_andThen (k := fun v s => ((s.setOverflow (productOverflow (s.reg .a) v)).setReg .a
    (BitVec.ofInt 16 (signedProduct (s.reg .a) v))).advance) h
  refine ⟨_, he, ?_, ?_, ?_, ?_, ?_⟩
  · rw [State.reg_advance _ (by decide), State.reg_setReg_same, acc.reg, signedProduct, BitVec.ofInt_mul,
      BitVec.ofInt_toInt, BitVec.ofInt_toInt]
  · simp [State.flag_setOverflow, acc.reg, productOverflow, signedProduct]
  · simp [State.flag_setOverflow, acc.flag]
  · simp [State.reg_setReg, State.setOverflow, acc.reg]
  · exact ((((acc.frame hw _ _).setFlagIn _ (by simp)).setFlagIn _ (by simp)).setRegIn _ (by simp)).advanceIn (by simp)

/-- AND and ORA: a function of A and the word. -/
theorem logicA_of_reads {m : MemOperand} {s : State} {v : Word} (f : Word → Word → Word) (hw : s.memoryWf)
    (h : s.reads m v) :
    ∃ t, (readOperand m s).andThen (fun v s => .next (s.setReg .a (f (s.reg .a) v)).advance) = .next t
      ∧ t.reg .a = f (s.reg .a) v ∧ t.reg .p = s.reg .p + 1 ∧ s.Frame [.a, .p] [] [] t := by
  obtain ⟨u, acc, he⟩ := readOperand_andThen (k := fun v s => (s.setReg .a (f (s.reg .a) v)).advance) h
  exact ⟨_, he, by simp [State.reg_advance_eq, acc.reg], by simp [State.reg_setReg, acc.reg],
    ((acc.frame hw _ _).setRegIn _ (by simp)).advanceIn (by simp)⟩

/-- Settles O21. -/
theorem accumulate : Obligations.Accumulate := by
  refine ⟨fun m s v hw h => ⟨exec_add_of_reads hw h, exec_sub_of_reads hw h⟩, fun m s v hw h =>
    ⟨exec_mpy_of_reads hw h, logicA_of_reads (· &&& ·) hw h, logicA_of_reads (· ||| ·) hw h⟩, fun m s => ?_⟩
  have ends {i : Instr} {k : Word → State → Out} (hexec : exec i s = (readOperand m s).andThen k) :
      (readOperand m s).Ends i s := Res.ends_of_andThen (readOperand_refuses ..) hexec fun _ h => h
  simp only [List.forall_mem_cons]
  exact ⟨ends rfl, ends rfl, ends rfl, ends rfl, ends rfl, List.forall_mem_nil _⟩

end Sys2Proof.Machine
end

section
/-! PROOF. Jumps (O24), the skip (O25) and the monitor call (O26). -/

namespace Sys2Proof.Machine

/-! ### Jumps -/

theorem frame_jumpIf (c : Bool) (d : BitVec 8) (s : State) : s.Frame [.p] [] [] (jumpIf c d s) := by
  unfold jumpIf
  split
  · exact (State.Frame.refl _ _ _ s).jumpIn _ (by simp)
  · exact (State.Frame.refl _ _ _ s).advanceIn (by simp)

theorem reg_jumpIf_p (c : Bool) (d : BitVec 8) (s : State) :
    (jumpIf c d s).reg .p = if c then s.reg .p + d.signExtend 16 else s.reg .p + 1 := by
  unfold jumpIf
  split <;> simp [sext8, State.pc_eq]

theorem reg_jumpIf {r : Reg} (hr : r ≠ .p) (c : Bool) (d : BitVec 8) (s : State) : (jumpIf c d s).reg r = s.reg r :=
  (frame_jumpIf c d s).regs r (by simpa using hr)

theorem msb_eq_neg (w : Word) : w.msb = decide (w.toInt < 0) := BitVec.msb_eq_toInt

theorem not_msb_eq_nonneg (w : Word) : (!w.msb) = decide (0 ≤ w.toInt) := by
  rw [msb_eq_neg, Bool.eq_iff_iff]
  simp

/-- A conditional jump: its code with the clear low byte that its displacement fills, its condition, its meaning. -/
theorem exec_eq_jumpIf (d : BitVec 8) (s : State) :
    ∀ p ∈ [(Instr.jap d, 0o130000#16, decide (0 ≤ (s.reg .a).toInt)), (.jan d, 0o130400, decide ((s.reg .a).toInt < 0)),
        (.jaz d, 0o131000, decide (s.reg .a = 0)), (.jaf d, 0o131400, decide (s.reg .a ≠ 0)),
        (.jxz d, 0o133000, decide (s.reg .x = 0)), (.jxn d, 0o133400, decide ((s.reg .x).toInt < 0))],
      p.2.1.setWidth 8 = 0 ∧ encode p.1 = encodeByte p.2.1 d ∧ exec p.1 s = .next (jumpIf p.2.2 d s) := by
  simp only [List.forall_mem_cons]
  refine ⟨⟨rfl, rfl, ?_⟩, ⟨rfl, rfl, ?_⟩, ⟨rfl, rfl, ?_⟩, ⟨rfl, rfl, ?_⟩, ⟨rfl, rfl, ?_⟩, ⟨rfl, rfl, ?_⟩,
    List.forall_mem_nil _⟩
  · rw [← not_msb_eq_nonneg]; rfl
  · rw [← msb_eq_neg]; rfl
  · rfl
  · rw [decide_not]; rfl
  · rfl
  · rw [← msb_eq_neg]; rfl

/-- The conditional jumps that count X up first. -/
theorem exec_eq_countAndJump (d : BitVec 8) (s : State) :
    ∀ p ∈ [(Instr.jpc d, 0o132000#16, decide (0 ≤ (s.reg .x + 1).toInt)),
        (.jnc d, 0o132400, decide ((s.reg .x + 1).toInt < 0))],
      p.2.1.setWidth 8 = 0 ∧ encode p.1 = encodeByte p.2.1 d
        ∧ exec p.1 s = .next (jumpIf p.2.2 d (s.setReg .x (s.reg .x + 1))) := by
  simp only [List.forall_mem_cons]
  refine ⟨⟨rfl, rfl, ?_⟩, ⟨rfl, rfl, ?_⟩, List.forall_mem_nil _⟩
  · rw [← not_msb_eq_nonneg]; rfl
  · rw [← msb_eq_neg]; rfl

/-- Settles O24. -/
theorem jumpInstructions : Obligations.JumpInstructions := by
  refine ⟨fun m s hw => ⟨rfl, rfl, fun p u hp => ?_, fun o ho => ?_⟩, fun d s => ⟨fun p hp => ?_, fun p hp => ?_⟩⟩
  · have acc : s.Accessed u := effAddr_accessed hp
    refine ⟨⟨u.jump p.addr, ?_, by simp, (acc.frame hw _ _).jumpIn _ (by simp)⟩,
      ⟨(u.setReg .l (u.pc + 1)).jump p.addr, ?_, by simp, ?_,
        ((acc.frame hw _ _).setRegIn _ (by simp)).jumpIn _ (by simp)⟩⟩
    · show (effAddr m s).andThen _ = _
      rw [hp, Res.andThen_ok]
    · show (effAddr m s).andThen _ = _
      rw [hp, Res.andThen_ok]
    · simp [State.reg_jump_eq, State.pc_eq, acc.reg]
  · constructor
    · show (effAddr m s).andThen _ = _
      rw [ho, Res.andThen_stop]
    · show (effAddr m s).andThen _ = _
      rw [ho, Res.andThen_stop]
  · obtain ⟨hbase, hencode, hexec⟩ := exec_eq_jumpIf d s p hp
    exact ⟨hencode.trans (encodeByte_eq_add hbase d), _, hexec, reg_jumpIf_p _ d s, frame_jumpIf _ d s⟩
  · obtain ⟨hbase, hencode, hexec⟩ := exec_eq_countAndJump d s p hp
    refine ⟨hencode.trans (encodeByte_eq_add hbase d), _, hexec, ?_, ?_, ?_⟩
    · rw [reg_jumpIf (by decide), State.reg_setReg_same]
    · rw [reg_jumpIf_p, State.reg_setReg_ne _ _ (by decide)]
    · exact ((s.frame_setReg .x _).trans (frame_jumpIf _ d _)).weaken (by simp) (by simp) (by simp)

/-! ### The skip -/

theorem toNat_compareSum (x y : Word) : (compareSum x y).toNat = 65536 + x.toNat - y.toNat := by
  have := x.isLt
  have := y.isLt
  simp [compareSum]
  omega

theorem compareSum_low (x y : Word) : (compareSum x y).setWidth 16 = x - y := by
  have := x.isLt
  have := y.isLt
  refine BitVec.eq_of_toNat_eq ?_
  rw [BitVec.toNat_setWidth, toNat_compareSum, BitVec.toNat_sub]
  omega

theorem compareSum_sign (x y : Word) : (compareSum x y).getLsbD 15 = decide ((x - y).toInt < 0) := by
  rw [← msb_eq_neg, ← compareSum_low, BitVec.msb_eq_getLsbD_last]
  simp

theorem compareSum_carry (x y : Word) : (compareSum x y).getLsbD 16 = decide (y.toNat ≤ x.toNat) := by
  have := x.isLt
  have := y.isLt
  rw [BitVec.getLsbD, toNat_compareSum, Nat.testBit_eq_decide_div_mod_eq, decide_eq_decide]
  omega

/-- Sign and overflow of the difference differ exactly if the first operand is the lesser. -/
theorem compareSum_less (x y : Word) : ((compareSum x y).getLsbD 15 != (x.msb != y.msb && (compareSum x y).getLsbD 15 != x.msb))
    = decide (x.toInt < y.toInt) := by
  have hx := x.isLt
  have hy := y.isLt
  have hd : (x - y).toNat = (65536 - y.toNat + x.toNat) % 65536 := BitVec.toNat_sub x y
  rw [compareSum_sign, ← msb_eq_neg, Bool.eq_iff_iff]
  simp only [BitVec.msb_eq_decide, BitVec.toInt_eq_toNat_cond, hd, bne_iff_ne, ne_eq, decide_eq_true_eq]
  cases h1 : decide (2 ^ (16 - 1) ≤ (65536 - y.toNat + x.toNat) % 65536) <;>
    cases h2 : decide (2 ^ (16 - 1) ≤ x.toNat) <;> cases h3 : decide (2 ^ (16 - 1) ≤ y.toNat) <;>
    simp only [decide_eq_true_eq, decide_eq_false_iff_not] at h1 h2 h3 <;> simp <;> split <;> split <;> omega

theorem skpTrue_eq_skpRelation (c : SkpCond) (x y : Word) : skpTrue c x y = skpRelation c x y := by
  have zero : ((compareSum x y).setWidth 16 == 0#16) = decide (x = y) := by
    rw [compareSum_low, Bool.eq_iff_iff]
    simp [BitVec.sub_eq_iff_eq_add]
  have le (a b : Int) : (!decide (a < b)) = decide (b ≤ a) := by rw [Bool.eq_iff_iff]; simp
  have lt (a b : Nat) : (!decide (a ≤ b)) = decide (b < a) := by rw [Bool.eq_iff_iff]; simp
  cases c with
  | eql => exact zero
  | ueq => exact (congrArg Bool.not zero).trans (decide_not).symm
  | lss => exact compareSum_sign x y
  | geq => exact (congrArg Bool.not (compareSum_sign x y)).trans (le _ _)
  | mgre => exact compareSum_carry x y
  | mlst => exact (congrArg Bool.not (compareSum_carry x y)).trans (lt _ _)
  | lst => exact compareSum_less x y
  | gre => exact (Bool.not_not _).symm.trans ((congrArg Bool.not (compareSum_less x y)).trans (le _ _))

/-- After `advance` a register field reads as the operand of R170. -/
theorem regOr0_advance (s : State) (r : Option Reg) : s.advance.regOr0 r = s.operandOf r := by
  cases r with
  | none => rfl
  | some c => cases c <;> simp [State.regOr0, State.operandOf, State.reg_advance_eq]

/-- Settles O25: the condition is `skpRelation` on the operands. -/
theorem skip : Obligations.Skip := by
  intro c sr dr s
  have hcond : skpTrue c (skpOperands sr dr s).1 (skpOperands sr dr s).2 = match s.cfg.skpOrder with
      | .drMinusSr => skpRelation c (s.operandOf dr) (s.operandOf sr)
      | .srMinusDr => skpRelation c (s.operandOf sr) (s.operandOf dr) := by
    rw [skpTrue_eq_skpRelation]
    unfold skpOperands
    dsimp only
    cases s.cfg.skpOrder <;> simp [regOr0_advance]
  refine ⟨if skpTrue c (skpOperands sr dr s).1 (skpOperands sr dr s).2 then s.skip else s.advance, rfl, ?_, ?_⟩
  · refine Eq.trans ?_ (congrArg (fun b : Bool => if b then s.reg .p + 2 else s.reg .p + 1) hcond)
    split <;> simp
  · split
    · exact (State.Frame.refl _ _ _ s).skipIn (by simp)
    · exact (State.Frame.refl _ _ _ s).advanceIn (by simp)

/-! ### The monitor call -/

/-- The registers of a level, P apart, after the end of an instruction. -/
theorem get_level_advance (s : State) (l : Level) {r : Reg} (hr : r ≠ .p) : (s.advance.level l).get r = (s.level l).get r := by
  by_cases hl : l = s.pil
  · subst hl
    exact s.reg_advance hr
  · rw [State.advance, State.level_setReg_ne _ _ _ hl]

theorem sts_level_advance (s : State) (l : Level) : (s.advance.level l).sts = (s.level l).sts := by
  by_cases hl : l = s.pil
  · subst hl
    exact s.stsLow_advance
  · rw [State.advance, State.level_setReg_ne _ _ _ hl]

/-- What MON leaves before it raises code 1. -/
def State.withMonitorNumber (s : State) (n : BitVec 8) : State := s.setLevel 14 { s.level 14 with t := sext8 n }

theorem get_withMonitorNumber (s : State) (n : BitVec 8) (l : Level) (r : Reg) :
    ((s.withMonitorNumber n).level l).get r = if l = 14 ∧ r = .t then sext8 n else (s.level l).get r := by
  unfold State.withMonitorNumber
  by_cases hl : l = 14
  · subst hl
    rw [State.level_setLevel_same]
    cases r <;> simp [LevelRegs.get]
  · rw [State.level_setLevel_ne _ _ hl, if_neg fun h => hl h.1]

theorem sts_withMonitorNumber (s : State) (n : BitVec 8) (l : Level) :
    ((s.withMonitorNumber n).level l).sts = (s.level l).sts := by
  unfold State.withMonitorNumber
  by_cases hl : l = 14
  · subst hl
    rw [State.level_setLevel_same]
  · rw [State.level_setLevel_ne _ _ hl]

/-- Settles O26. -/
theorem monitorCall : Obligations.MonitorCall := by
  intro n s
  refine ⟨(rfl : encode (.mon n) = encodeByte 0o153000 n).trans (encodeByte_eq_add rfl n),
    (s.withMonitorNumber n).advance, rfl, ?_, ?_, fun l h14 hl => ?_, fun r hp hr => ?_, fun l => ?_,
    fun h14 r hr => ?_, rfl⟩
  · exact (get_level_advance _ 14 (r := .t) (by decide)).trans (by simp [get_withMonitorNumber, sext8])
  · rw [State.reg_advance_p, State.reg, get_withMonitorNumber, if_neg (by simp)]
    rfl
  · exact ((s.withMonitorNumber n).level_setReg_ne .p _ hl).trans (State.level_setLevel_ne _ _ h14)
  · have hne : ¬(s.pil = 14 ∧ r = .t) := by tauto
    exact (State.reg_advance _ hp).trans ((get_withMonitorNumber s n s.pil r).trans (if_neg hne))
  · rw [sts_level_advance, sts_withMonitorNumber]
  · have hl : (s.withMonitorNumber n).advance.level 14 = (s.withMonitorNumber n).level 14 :=
      State.level_setReg_ne _ _ _ (Ne.symm h14)
    rw [hl, get_withMonitorNumber, if_neg fun h => hr h.2]

end Sys2Proof.Machine
end

section
/-! PROOF. The register instructions: moves and logic (O27), RADD and what stands for it (O28), RMPY, RDIV and MIX3 (O29),
EXR (O30). -/

namespace Sys2Proof.Machine

/-! ### Operands and destinations -/

theorem sourceOperand_advance (cm1 : Bool) (sr : Option Reg) (s : State) :
    sourceOperand cm1 sr s.advance = if cm1 then ~~~(s.operandOf sr) else s.operandOf sr := by
  rw [sourceOperand, regOr0_advance]

theorem destOperand_advance (cld : Bool) (dr : Option Reg) (s : State) :
    destOperand cld dr s.advance = if cld then 0 else s.operandOf dr := by
  rw [destOperand, regOr0_advance]

/-- A register written after `advance` is a destination: in P it is the next address. -/
theorem lands_setReg {s u : State} (hp : u.reg .p = s.reg .p + 1) (dst : Reg) (v : Word) :
    s.Lands (u.setReg dst v) (some dst) v := by
  refine ⟨?_, fun r hr => ?_⟩
  · rw [State.reg_setReg, hp]
    by_cases h : dst = .p <;> simp [h, eq_comm]
  · cases hr
    exact u.reg_setReg_same dst v

theorem lands_setRegOr0 (s : State) (dr : Option Reg) (v : Word) : s.Lands (s.advance.setRegOr0 dr v) dr v := by
  cases dr with
  | none => exact ⟨by simp [State.setRegOr0], fun r hr => by cases hr⟩
  | some dst => exact lands_setReg s.reg_advance_p dst v

theorem frame_setRegOr0 (s : State) (dr : Option Reg) (v : Word) :
    s.Frame (.p :: dr.toList) [] [] (s.advance.setRegOr0 dr v) := by
  have h : s.Frame (.p :: dr.toList) [] [] s.advance := (State.Frame.refl _ _ _ s).advanceIn (by simp)
  cases dr with
  | none => exact h
  | some dst => exact h.setRegIn v (by simp)

/-! ### Logic and SWAP -/

theorem registerLogic_eq (f : Word → Word → Word) (cm1 cld : Bool) (sr dr : Option Reg) (s : State) :
    registerLogic f cm1 cld sr dr s = s.advance.setRegOr0 dr
      (f (if cld then 0 else s.operandOf dr) (if cm1 then ~~~(s.operandOf sr) else s.operandOf sr)) := by
  rw [registerLogic, sourceOperand_advance, destOperand_advance]

/-- SWAP of a register with itself or of no source: the destination alone is written. -/
theorem exec_swap_one {cm1 cld : Bool} {sr : Option Reg} {dst : Reg} {s : State}
    (h : sr = none ∨ sr = some dst ∧ cld = false) :
    exec (.swap cm1 cld sr (some dst)) s = .next (s.advance.setReg dst (sourceOperand cm1 sr s.advance)) := by
  show execSwap cm1 cld sr (some dst) s = _
  rcases h with rfl | ⟨rfl, rfl⟩
  · rfl
  · simp [execSwap]

theorem exec_swap_clear {cm1 : Bool} {dst : Reg} {s : State} :
    exec (.swap cm1 true (some dst) (some dst)) s
      = .next (({ s.advance with free := s.free + 1 } : State).setReg dst
          (if (Config.freeWord s.free).getLsbD 0 then sourceOperand cm1 (some dst) s.advance else 0)) := by
  show execSwap cm1 true (some dst) (some dst) s = _
  simp only [execSwap, if_true, freshWord, Res.andThen_ok]
  rfl

theorem exec_swap_two {cm1 cld : Bool} {src dst : Reg} {s : State} (h : src ≠ dst) :
    exec (.swap cm1 cld (some src) (some dst)) s
      = .next ((s.advance.setReg dst (sourceOperand cm1 (some src) s.advance)).setReg src
          (destOperand cld (some dst) s.advance)) := by
  show execSwap cm1 cld (some src) (some dst) s = _
  simp only [execSwap, if_neg h]

/-- Settles O27. -/
theorem registerMoves : Obligations.RegisterMoves := by
  refine ⟨fun cm1 cld sr dr s => ?_, fun cm1 cld sr dr s => ⟨fun hd => ?_, fun dst hd h => ?_, fun dst hd hs hc => ?_,
    fun src dst hs hd hne => ?_⟩⟩
  · have logic (f : Word → Word → Word) :
        ∃ t, Host.Outcome.next (registerLogic f cm1 cld sr dr s) = (.next t : Out)
          ∧ s.Lands t dr (f (if cld then 0 else s.operandOf dr) (if cm1 then ~~~(s.operandOf sr) else s.operandOf sr))
          ∧ s.Frame (.p :: dr.toList) [] [] t := by
      rw [registerLogic_eq]
      exact ⟨_, rfl, lands_setRegOr0 s dr _, frame_setRegOr0 s dr _⟩
    simp only [List.forall_mem_cons]
    exact ⟨logic (· &&& ·), logic (· ^^^ ·), logic (· ||| ·), List.forall_mem_nil _⟩
  · subst hd
    cases sr <;> rfl
  · subst hd
    rw [exec_swap_one h, sourceOperand_advance]
    exact ⟨_, rfl, lands_setRegOr0 s (some dst) _, frame_setRegOr0 s (some dst) _⟩
  · subst hd hs hc
    have frame : s.Frame [.p, dst] [] [] { s.advance with free := s.free + 1 } :=
      ((State.Frame.refl _ _ _ s).advanceIn (by simp)).setFree _
    rw [exec_swap_clear, sourceOperand_advance]
    refine ⟨_, rfl, ?_, frame.setRegIn _ (by simp)⟩
    have lands (v : Word) : s.Lands (({ s.advance with free := s.free + 1 } : State).setReg dst v) (some dst) v :=
      lands_setReg s.reg_advance_p dst v
    split
    · exact .inl (lands _)
    · exact .inr (lands _)
  · subst hd hs
    rw [exec_swap_two hne, sourceOperand_advance, destOperand_advance]
    refine ⟨_, rfl, ?_, ?_, fun hp hp' => ?_, ?_⟩
    · rw [State.reg_setReg_ne _ _ hne.symm, State.reg_setReg_same]
    · rw [State.reg_setReg_same]
    · rw [State.reg_setReg_ne _ _ hp.symm, State.reg_setReg_ne _ _ hp'.symm, State.reg_advance_p]
    · exact (((State.Frame.refl _ _ _ s).advanceIn (by simp)).setRegIn _ (by simp)).setRegIn _ (by simp)

/-! ### RADD -/

theorem registerAdd_none {adc ad1 cm1 cld : Bool} {sr : Option Reg} {s : State} (h : ¬(adc = true ∧ ad1 = true)) :
    registerAdd adc ad1 cm1 cld sr none s = s.advance.setFlag .c false := by
  unfold registerAdd
  rw [if_neg (by simpa using h)]

theorem registerAdd_some {adc ad1 cm1 cld : Bool} {sr : Option Reg} {r : Reg} {s : State}
    (h : ¬(adc = true ∧ ad1 = true)) :
    let x := if cld then 0 else s.operandOf (some r)
    let y := if cm1 then ~~~(s.operandOf sr) else s.operandOf sr
    let cin := ad1 || (adc && s.flag .c)
    registerAdd adc ad1 cm1 cld sr (some r) s
      = (s.advance.setAdderFlags x y cin).setReg r (adderValue x y cin) := by
  unfold registerAdd
  rw [if_neg (show ¬((adc && ad1) = true) by simpa using h)]
  simp only [sourceOperand_advance, destOperand_advance, carryIn, State.flag_advance]

/-- RADD and the instructions that stand for it with these bits. -/
theorem exec_eq_registerAdd (s : State) (sr dr : Option Reg) (adc ad1 cm1 cld : Bool) :
    ∀ i ∈ [Instr.radd adc ad1 cm1 cld sr dr] ++ (if (adc, ad1, cm1, cld) = (false, false, false, true) then
          [Instr.copy sr dr] ++ (if sr = none then [.rclr dr] else []) ++ (if (sr, dr) = (some .l, some .p) then [.exit] else [])
        else []) ++ (if (adc, ad1, cm1, cld, sr) = (false, false, true, false, none) then [.rdcr dr] else [])
        ++ (if (adc, ad1, cm1, cld, sr) = (false, true, false, false, none) then [.rinc dr] else [])
        ++ (if (adc, ad1, cm1, cld) = (false, true, true, false) then [.rsub sr dr] else []),
      exec i s = .next (registerAdd adc ad1 cm1 cld sr dr s) := by
  intro i hi
  simp only [List.mem_append, List.mem_singleton, List.mem_ite_nil_right, Prod.mk.injEq] at hi
  rcases hi with (((rfl | ⟨⟨rfl, rfl, rfl, rfl⟩, (rfl | ⟨rfl, rfl⟩) | ⟨⟨rfl, rfl⟩, rfl⟩⟩) |
    ⟨⟨rfl, rfl, rfl, rfl, rfl⟩, rfl⟩) | ⟨⟨rfl, rfl, rfl, rfl, rfl⟩, rfl⟩) | ⟨⟨rfl, rfl, rfl, rfl⟩, rfl⟩ <;> rfl

/-! ### RMPY, RDIV and MIX3 -/

theorem toInt_word_bounds (w : Word) : -32768 ≤ w.toInt ∧ w.toInt ≤ 32767 := by
  have h1 := BitVec.le_toInt w
  have h2 := BitVec.toInt_lt (x := w)
  omega

/-- A signed product fits 32 bits. -/
theorem signedProduct_bounds (x y : Word) : -2 ^ 31 ≤ signedProduct x y ∧ signedProduct x y < 2 ^ 31 := by
  obtain ⟨hx, hx'⟩ := toInt_word_bounds x
  obtain ⟨hy, hy'⟩ := toInt_word_bounds y
  unfold signedProduct
  constructor <;> nlinarith

theorem append_halves (p : BitVec 32) : (p.extractLsb' 16 16 ++ p.extractLsb' 0 16 : BitVec 32) = p :=
  (BitVec.extractLsb'_append_extractLsb'_eq_extractLsb' (start₁ := 0) (len₁ := 16) rfl).trans BitVec.extractLsb'_eq_self

theorem exec_rmpy_some {sr : Option Reg} {r : Reg} {s : State} :
    ∃ t, exec (.rmpy sr (some r)) s = .next t
      ∧ (t.reg .a ++ t.reg .d).toInt = (s.operandOf sr).toInt * (s.operandOf (some r)).toInt
      ∧ t.reg .p = s.reg .p + 1 ∧ s.Frame [.a, .d, .p] [] [] t := by
  have hr : s.advance.reg r = s.operandOf (some r) := regOr0_advance s (some r)
  obtain ⟨hlo, hhi⟩ := signedProduct_bounds (s.operandOf sr) (s.operandOf (some r))
  refine ⟨_, rfl, ?_, ?_, ?_⟩
  · simp only [State.reg_setReg_same, State.reg_setReg_ne _ _ (show Reg.a ≠ .d by decide)]
    rw [append_halves, regOr0_advance, hr, BitVec.toInt_ofInt_eq_self (by decide) hlo hhi]
    rfl
  · simp [State.reg_setReg]
  · exact (((State.Frame.refl _ _ _ s).advanceIn (by simp)).setRegIn _ (by simp)).setRegIn _ (by simp)

/-- Division toward zero is what its remainder says. -/
theorem tdiv_tmod_of_eq {n d q r : Int} (hd : d ≠ 0) (h : n = q * d + r) (hr : r.natAbs < d.natAbs)
    (hs : r = 0 ∨ (0 < r ↔ 0 < n)) : n.tdiv d = q ∧ n.tmod d = r := by
  have hn : r + d * q = n := by rw [h, mul_comm]; omega
  rcases le_total 0 n with h0 | h0
  · refine (Int.tdiv_tmod_unique h0 hd).2 ⟨hn, ?_, by omega⟩
    rcases hs with rfl | hs
    · exact le_refl 0
    · by_contra hneg
      have hn0 : n = 0 := by
        by_contra hne
        exact hneg (le_of_lt (hs.2 (lt_of_le_of_ne h0 (Ne.symm hne))))
      have hdvd : d ∣ r := ⟨-q, by rw [mul_neg]; omega⟩
      have := Int.natAbs_le_of_dvd_ne_zero hdvd (by omega)
      omega
  · refine (Int.tdiv_tmod_unique' h0 hd).2 ⟨hn, by omega, ?_⟩
    rcases hs with rfl | hs
    · exact le_refl 0
    · by_contra hpos
      exact absurd (hs.1 (by omega)) (by omega)

theorem divisionFits_eq {n d q r : Int} (hd : d ≠ 0) (h : n = q * d + r) (hr : r.natAbs < d.natAbs)
    (hs : r = 0 ∨ (0 < r ↔ 0 < n)) : divisionFits n d = !outOfWord q := by
  rw [divisionFits, (tdiv_tmod_of_eq hd h hr hs).1, outOfWord, Bool.eq_iff_iff]
  simp [hd]

theorem exec_rdiv_of_fits {sr : Option Reg} {s : State}
    (h : divisionFits (s.reg .a ++ s.reg .d).toInt (s.operandOf sr).toInt = true) :
    exec (.rdiv sr) s = .next ((s.advance.setReg .a
        (BitVec.ofInt 16 ((s.reg .a ++ s.reg .d).toInt.tdiv (s.operandOf sr).toInt))).setReg .d
        (BitVec.ofInt 16 ((s.reg .a ++ s.reg .d).toInt.tmod (s.operandOf sr).toInt))) := by
  show execRdiv sr s = _
  unfold execRdiv
  simp only [regOr0_advance, State.reg_advance_eq, reduceCtorEq, if_false]
  rw [if_pos h]

/-- A quotient that is not representable: A and D take any value, Z is set and code 5 raised. -/
theorem exec_rdiv_of_not_fits {sr : Option Reg} {s : State}
    (h : divisionFits (s.reg .a ++ s.reg .d).toInt (s.operandOf sr).toInt = false) :
    ∃ t, exec (.rdiv sr) s = .next (t.raiseAfter 5) ∧ t.flag .z = true ∧ t.reg .p = s.reg .p + 1
      ∧ s.Frame [.a, .d, .p] [.z] [] t := by
  have frame : s.Frame [.a, .d, .p] [.z] [] s.advance := (State.Frame.refl _ _ _ s).advanceIn (by simp)
  refine ⟨((({ s.advance with free := s.free + 1 + 1 } : State).setReg .a (Config.freeWord s.free)).setReg .d
    (Config.freeWord (s.free + 1))).setFlag .z true, ?_, by simp, ?_, ?_⟩
  · show execRdiv sr s = _
    unfold execRdiv
    simp only [regOr0_advance, State.reg_advance_eq, reduceCtorEq, if_false]
    rw [if_neg (by simp [h])]
    rfl
  · rw [State.reg_setFlag, State.reg_setReg_ne _ _ (by decide), State.reg_setReg_ne _ _ (by decide)]
    exact s.reg_advance_p
  · exact (((frame.setFree _).setRegIn _ (by simp)).setRegIn _ (by simp)).setFlagIn _ (by simp)

/-- Settles O29. -/
theorem multiplyDivide : Obligations.MultiplyDivide := by
  intro sr dr s
  refine ⟨fun r hr => ?_, fun hr => ?_, fun n d q r hn hdv hd heq hr hs => ⟨fun hq => ?_, fun hq => ?_⟩, fun h0 => ?_, ?_⟩
  · subst hr
    exact exec_rmpy_some
  · subst hr
    rfl
  · obtain ⟨hdiv, hmod⟩ := tdiv_tmod_of_eq hd heq hr hs
    have fits := divisionFits_eq hd heq hr hs
    subst hn hdv
    rw [hq] at fits
    have hb := toInt_word_bounds (s.operandOf sr)
    simp only [outOfWord, Bool.or_eq_false_iff, decide_eq_false_iff_not] at hq
    rw [exec_rdiv_of_fits fits, hdiv, hmod]
    refine ⟨_, rfl, ?_, ?_, ?_, ?_⟩
    · rw [State.reg_setReg_ne _ _ (by decide), State.reg_setReg_same]
      exact BitVec.toInt_ofInt_eq_self (by decide) (by omega) (by omega)
    · rw [State.reg_setReg_same]
      exact BitVec.toInt_ofInt_eq_self (by decide) (by omega) (by omega)
    · simp [State.reg_setReg]
    · exact (((State.Frame.refl _ _ _ s).advanceIn (by simp)).setRegIn _ (by simp)).setRegIn _ (by simp)
  · have fits := divisionFits_eq hd heq hr hs
    subst hn hdv
    rw [hq] at fits
    exact exec_rdiv_of_not_fits fits
  · exact exec_rdiv_of_not_fits (by simp [h0, divisionFits])
  · exact ⟨_, rfl, by simp [State.reg_advance_eq], by simp [State.reg_setReg],
      ((State.Frame.refl _ _ _ s).setRegIn _ (by simp)).advanceIn (by simp)⟩

/-! ### EXR -/

theorem exec_exr_of_ok {sr : Option Reg} {s : State} {i : Instr} (h : decodeWord (s.operandOf sr) = .ok i) :
    exec (.exr sr) s = execInner i s := by
  show execExr sr s = _
  unfold execExr
  rw [regOr0_advance, h]

/-- The words of EXR. -/
theorem decodeWord_of_exr {w : Word} (h : w &&& 0o177707 = 0o140600) : ∃ r, decodeWord w = .ok (.exr r) := by
  have all : ∀ c : BitVec 3, ∃ r, decodeWord (0o140600 ||| (c.setWidth 16 <<< 3)) = .ok (.exr r) := by
    intro c
    have hc : c = 0 ∨ c = 1 ∨ c = 2 ∨ c = 3 ∨ c = 4 ∨ c = 5 ∨ c = 6 ∨ c = 7 := by
      revert c
      decide
    rcases hc with rfl | rfl | rfl | rfl | rfl | rfl | rfl | rfl <;> exact ⟨_, rfl⟩
  have hw : w = 0o140600 ||| ((w.extractLsb' 3 3).setWidth 16 <<< 3) := by
    refine BitVec.eq_of_getLsbD_eq fun i hi => ?_
    have hbit : (w &&& 0o177707#16).getLsbD i = (0o140600#16).getLsbD i := congrArg (·.getLsbD i) h
    clear h all
    interval_cases i <;> simp_all
  rw [hw]
  exact all _

/-- Settles O30. -/
theorem registerExecute : Obligations.RegisterExecute := by
  intro sr s
  refine ⟨fun i hi hexr => ?_, fun n hn => ?_, fun h => ?_, fun e he => ?_⟩
  · rw [exec_exr_of_ok hi, execInner_eq_exec i s hexr]
  · have hdecode : decodeWord (s.operandOf sr) = .ok (.saa n) := by
      rw [hn, ← encodeByte_eq_add rfl n]
      exact decodeOfEncode (.saa n) rfl
    rw [exec_exr_of_ok hdecode]
    exact ⟨_, rfl, setArgument_reg_same (by decide) n s, setArgument_reg_p (by decide) n s, frame_setArgument .a n s⟩
  · obtain ⟨r, hr⟩ := decodeWord_of_exr h
    rw [exec_exr_of_ok hr]
    exact ⟨s.advance.setFlag .z true, rfl, by simp, by simp,
      ((State.Frame.refl _ _ _ s).advanceIn (by simp)).setFlagIn _ (by simp)⟩
  · show execExr sr s = _
    unfold execExr
    rw [regOr0_advance, he]
    rfl

end Sys2Proof.Machine

namespace Sys2Proof
open Machine

/-- Settles O28. -/
theorem registerAdd : Obligations.RegisterAdd := by
  intro s sr dr adc ad1 cm1 cld x y cin i hi
  rw [exec_eq_registerAdd s sr dr adc ad1 cm1 cld i hi]
  refine ⟨fun hnot r hr => ?_, fun hnot hr => ?_, fun hadc had1 => ?_⟩
  · subst hr
    rw [registerAdd_some hnot]
    have frame : s.Frame [.p, r] [.c, .q, .o] [] s.advance := (State.Frame.refl _ _ _ s).advanceIn (by simp)
    refine ⟨_, rfl, ?_, ?_, ?_, ?_, ?_⟩
    · rw [adderValue_eq]
      exact lands_setReg (by simp) r _
    · rw [State.flag_setReg, State.flag_setAdderFlags]
      exact adderCarry_eq x y cin
    · rw [State.flag_setReg, State.flag_setAdderFlags]
      exact adderOverflow_eq x y cin
    · simp [State.flag_setAdderFlags]
    · exact (frame.adderIn _ _ _ (by simp) (by simp) (by simp)).setRegIn _ (by simp)
  · subst hr
    rw [registerAdd_none hnot]
    exact ⟨_, rfl, by simp, by simp, ((State.Frame.refl _ _ _ s).advanceIn (by simp)).setFlagIn _ (by simp)⟩
  · subst hadc had1
    rfl

end Sys2Proof
end

section
/-! PROOF. Arguments added to a register (O33); the bit instructions (O34, O35, O36). -/

namespace Sys2Proof.Machine

/-! ### Adding an argument -/

/-- AAA, AAB, AAT and AAX add to a register other than P. -/
theorem exec_eq_addArgument (n : BitVec 8) (s : State) :
    ∀ p ∈ [(Instr.aaa n, 0o172400#16, Reg.a), (.aab n, 0o172000, .b), (.aat n, 0o173000, .t), (.aax n, 0o173400, .x)],
      p.2.1.setWidth 8 = 0 ∧ p.2.2 ≠ .p ∧ encode p.1 = encodeByte p.2.1 n
        ∧ exec p.1 s = .next (addArgument p.2.2 n s) := by
  simp only [List.forall_mem_cons]
  exact ⟨⟨rfl, by decide, rfl, rfl⟩, ⟨rfl, by decide, rfl, rfl⟩, ⟨rfl, by decide, rfl, rfl⟩, ⟨rfl, by decide, rfl, rfl⟩,
    List.forall_mem_nil _⟩

/-- Settles O33: the sum, and the flags, of the adder. -/
theorem addArguments : Obligations.AddArguments := by
  intro n s p hp
  obtain ⟨hbase, hr, hencode, hexec⟩ := exec_eq_addArgument n s p hp
  refine ⟨hencode.trans (encodeByte_eq_add hbase n), addArgument p.2.2 n s, hexec, ?_, ?_, ?_, ?_, ?_, ?_⟩
  · rw [addArgument, State.reg_advance _ hr, State.reg_setReg_same, adderValue_eq]
    simp [sext8]
  · simp [addArgument, State.flag_setAdderFlags, adderCarry_eq, sext8]
  · simp [addArgument, State.flag_setAdderFlags, adderOverflow_eq, sext8, BitVec.toInt_signExtend_of_le]
  · simp [addArgument, State.flag_setAdderFlags]
  · rw [addArgument, State.reg_advance_p, State.reg_setReg_ne _ _ hr.symm, State.reg_setAdderFlags]
  · exact (((State.Frame.refl _ _ _ s).adderIn _ _ _ (by simp) (by simp) (by simp)).setRegIn _ (by simp)).advanceIn
      (by simp)

/-! ### Bits of registers -/

theorem withBit_of_allowed {bn : BitVec 4} {dr : StsOrReg} (h : dr = .sts → bn < 8) (s : State) (k : State → State) :
    withBit bn dr s k = .next (k s.advance) := by
  refine if_neg ?_
  rintro ⟨hd, hb⟩
  exact absurd (h hd) (by simpa using hb)

theorem bitRegister_advance (dr : StsOrReg) (s : State) : bitRegister dr s.advance = match dr with
    | .sts => s.stsLow.setWidth 16
    | .reg r => s.operandOf (some r) := by
  cases dr with
  | sts => simp [bitRegister]
  | reg r => exact regOr0_advance s (some r)

/-- After `advance` the bit is the operand of R301. -/
theorem bitOperand_advance {bn : BitVec 4} {dr : StsOrReg} (h : dr = .sts → bn < 8) (s : State) :
    bitOperand bn dr s.advance = s.bitAt bn dr := by
  rw [bitOperand, bitRegister_advance]
  cases dr with
  | sts =>
    have hb : bn.toNat < 8 := BitVec.lt_def.1 (h rfl)
    show (s.stsLow.setWidth 16).getLsbD bn.toNat = s.stsLow.getLsbD bn.toNat
    rw [BitVec.getLsbD_setWidth, decide_eq_true (by omega), Bool.true_and]
  | reg r => rfl

theorem bitWritten_writeBit (bn : BitVec 4) (dr : StsOrReg) (b : Bool) (s : State) :
    s.BitWritten (writeBit bn dr b s.advance) bn dr b := by
  cases dr with
  | sts => exact ⟨by simp [writeBit], by simp [writeBit]⟩
  | reg r =>
    have hr : s.advance.reg r = s.operandOf (some r) := regOr0_advance s (some r)
    show s.Lands (s.advance.setReg r (putBit (s.advance.reg r) bn.toNat b)) (some r) _
    rw [hr]
    exact lands_setReg s.reg_advance_p r _

/-- The flags that a frame may list all: the low byte of STS written. -/
theorem State.frame_setStsLow (s : State) (v : Byte) : s.Frame [] allFlags [] (s.setStsLow v) :=
  ⟨fun r _ => s.reg_setStsLow v r, fun f hf => absurd (by cases f <;> simp [allFlags]) hf,
    fun l hl => s.level_setStsLow_ne v hl, rfl, fun _ _ => rfl, fun _ _ _ => rfl, fun _ _ => rfl⟩

theorem frame_writeBit (bn : BitVec 4) (dr : StsOrReg) (b : Bool) (s : State) :
    s.Frame (.p :: regsOf dr) (if dr = .sts then allFlags else []) [] (writeBit bn dr b s.advance) := by
  have frame (fs : List Flag) : s.Frame (.p :: regsOf dr) fs [] s.advance :=
    (State.Frame.refl _ _ _ s).advanceIn (by simp)
  cases dr with
  | sts => exact ((frame []).trans (s.advance.frame_setStsLow _)).weaken (by simp) (by simp) (by simp)
  | reg r => exact (frame _).setRegIn _ (by simp [regsOf])

/-! ### Stores -/

theorem exec_eq_setBitTo {bn : BitVec 4} {dr : StsOrReg} (h : dr = .sts → bn < 8) (s : State) :
    ∀ p ∈ [(Instr.bsetZro bn dr, false), (.bsetOne bn dr, true), (.bsetBcm bn dr, !s.bitAt bn dr),
        (.bsetBac bn dr, s.flag .k)],
      exec p.1 s = .next (setBitTo bn dr p.2 s.advance) := by
  have allowed := withBit_of_allowed h s
  simp only [List.forall_mem_cons]
  refine ⟨allowed _, allowed _, (allowed _).trans ?_, (allowed _).trans ?_, List.forall_mem_nil _⟩
  · rw [bitOperand_advance h]
  · rw [State.flag_advance]

theorem exec_eq_storeBit {bn : BitVec 4} {dr : StsOrReg} (h : dr = .sts → bn < 8) (s : State) :
    ∀ p ∈ [(Instr.bstc bn dr, !s.flag .k, true), (.bsta bn dr, s.flag .k, false)],
      exec p.1 s = .next (storeBit bn dr p.2.1 p.2.2 s.advance) := by
  have allowed := withBit_of_allowed h s
  simp only [List.forall_mem_cons]
  refine ⟨(allowed _).trans ?_, (allowed _).trans ?_, List.forall_mem_nil _⟩ <;> rw [State.flag_advance]

/-- Settles O34. -/
theorem bitStores : Obligations.BitStores := by
  intro bn dr s h
  refine ⟨fun p hp => ?_, fun p hp => ?_⟩
  · exact ⟨_, exec_eq_setBitTo h s p hp, bitWritten_writeBit bn dr p.2 s, frame_writeBit bn dr p.2 s⟩
  · exact ⟨_, _, exec_eq_storeBit h s p hp, bitWritten_writeBit bn dr p.2.1 s, frame_writeBit bn dr p.2.1 s, rfl⟩

/-! ### Loads -/

/-- A code with bits 6 to 0 clear, a bit number in bits 6-3 and a register in bits 2-0 have no bits in common. -/
theorem encodeLevel_eq_add {base : Word} (h : base.setWidth 7 = 0) (n : BitVec 4) (dr : StsOrReg) :
    encodeLevel base n dr = base + n.setWidth 16 * 8 + (codeOfStsOrReg dr).setWidth 16 := by
  have low (i : Nat) (hi : i < 16) (hlow : i < 7) : base[i] = false := by
    simpa [hlow, BitVec.getLsbD_eq_getElem hi] using congrArg (·.getLsbD i) h
  have hmul : n.setWidth 16 * 8 = atBit n 3 := by
    rw [atBit, BitVec.shiftLeft_eq_mul_twoPow]
    rfl
  have h1 : base &&& atBit n 3 = 0 := by
    ext i hi
    rcases Nat.lt_or_ge i 7 with hlow | hhigh
    · simp [low i hi hlow]
    · simp [atBit, BitVec.getLsbD_of_ge n (i - 3) (by omega)]
  have h2 : (base + atBit n 3) &&& (codeOfStsOrReg dr).setWidth 16 = 0 := by
    rw [BitVec.add_eq_or_of_and_eq_zero _ _ h1]
    ext i hi
    rcases Nat.lt_or_ge i 3 with hlow | hhigh
    · simp [atBit, low i hi (by omega), hlow]
    · simp [BitVec.getLsbD_of_ge (codeOfStsOrReg dr) i hhigh]
  rw [hmul, BitVec.add_eq_or_of_and_eq_zero _ _ h2, BitVec.add_eq_or_of_and_eq_zero _ _ h1, encodeLevel]
  simp [atBit]

theorem codeOfStsOrReg_eq (dr : StsOrReg) : (codeOfStsOrReg dr).setWidth 16 = match dr with
    | .sts => (0 : Word)
    | .reg .d => 1
    | .reg .p => 2
    | .reg .b => 3
    | .reg .l => 4
    | .reg .a => 5
    | .reg .t => 6
    | .reg .x => 7 := by
  cases dr with
  | sts => rfl
  | reg r => cases r <;> rfl

/-- The six instructions that write K from the bit and K. -/
theorem exec_eq_setK {bn : BitVec 4} {dr : StsOrReg} (h : dr = .sts → bn < 8) (s : State) :
    let b := s.bitAt bn dr
    let k := s.flag .k
    ∀ p ∈ [(Instr.bldc bn dr, 0o176400#16, !b), (.blda bn dr, 0o176600, b), (.banc bn dr, 0o177000, !b && k),
        (.band bn dr, 0o177200, b && k), (.borc bn dr, 0o177400, !b || k), (.bora bn dr, 0o177600, b || k)],
      p.2.1.setWidth 7 = 0 ∧ encode p.1 = encodeLevel p.2.1 bn dr ∧ exec p.1 s = .next (s.advance.setFlag .k p.2.2) := by
  have meaning {i : Instr} (f : State → Bool) (hexec : exec i s = withBit bn dr s fun s => s.setFlag .k (f s)) :
      exec i s = .next (s.advance.setFlag .k (f s.advance)) := hexec.trans (withBit_of_allowed h s _)
  intro b k
  rw [show b = bitOperand bn dr s.advance from (bitOperand_advance h s).symm,
    show k = s.advance.flag .k from (s.flag_advance .k).symm]
  simp only [List.forall_mem_cons]
  exact ⟨⟨rfl, rfl, meaning (fun s => !bitOperand bn dr s) rfl⟩,
    ⟨rfl, rfl, meaning (fun s => bitOperand bn dr s) rfl⟩,
    ⟨rfl, rfl, meaning (fun s => !bitOperand bn dr s && s.flag .k) rfl⟩,
    ⟨rfl, rfl, meaning (fun s => bitOperand bn dr s && s.flag .k) rfl⟩,
    ⟨rfl, rfl, meaning (fun s => !bitOperand bn dr s || s.flag .k) rfl⟩,
    ⟨rfl, rfl, meaning (fun s => bitOperand bn dr s || s.flag .k) rfl⟩, List.forall_mem_nil _⟩

/-- Settles O35. -/
theorem bitLoads : Obligations.BitLoads := by
  intro bn dr s h b k p hp
  obtain ⟨hbase, hencode, hexec⟩ := exec_eq_setK h s p hp
  refine ⟨?_, _, hexec, by simp, by simp, ((State.Frame.refl _ _ _ s).advanceIn (by simp)).setFlagIn _ (by simp)⟩
  rw [hencode, encodeLevel_eq_add hbase]
  exact congrArg (p.2.1 + bn.setWidth 16 * 8 + ·) (codeOfStsOrReg_eq dr)

/-! ### Skips -/

theorem exec_eq_skipIf {bn : BitVec 4} {dr : StsOrReg} (h : dr = .sts → bn < 8) (s : State) :
    let b := s.bitAt bn dr
    let k := s.flag .k
    ∀ p ∈ [(Instr.bskpZro bn dr, !b), (.bskpOne bn dr, b), (.bskpBcm bn dr, b != k), (.bskpBac bn dr, b == k)],
      exec p.1 s = .next (skipIf p.2 s.advance) := by
  have allowed := withBit_of_allowed h s
  simp only [List.forall_mem_cons]
  refine ⟨(allowed _).trans ?_, (allowed _).trans ?_, (allowed _).trans ?_, (allowed _).trans ?_, List.forall_mem_nil _⟩
  all_goals simp only [bitOperand_advance h, State.flag_advance]

/-- Settles O36. -/
theorem bitSkips : Obligations.BitSkips := by
  intro bn dr s h b k p hp
  have frame : s.Frame [.p] [] [] s.advance := (State.Frame.refl _ _ _ s).advanceIn (by simp)
  refine ⟨_, exec_eq_skipIf h s p hp, ?_, ?_⟩
  · unfold skipIf
    split
    · rw [State.reg_advance_p, State.reg_advance_p, BitVec.add_assoc]
      rfl
    · rw [State.reg_advance_p]
  · unfold skipIf
    split
    · exact frame.advanceIn (by simp)
    · exact frame

end Sys2Proof.Machine
end

section
/-! PROOF. VERSN (O40), the internal registers (O47, O48), input and output (O49), IDENT (O50), the switches of the machine
and the global pointers (O51), WAIT (O52). -/

namespace Sys2Proof.Machine

/-! ### VERSN and the switches -/

/-- Settles O40. -/
theorem version : Obligations.Version := by
  intro s
  refine ⟨rfl, _, rfl, ?_, ?_, fun k hk => ?_, ?_, ?_⟩
  · simp [State.reg_advance_eq, State.reg_setReg]
  · simp [State.reg_advance_eq, State.reg_setReg]
  · obtain ⟨k, hlt⟩ := k
    subst hk
    simp [State.reg_advance_eq]
  · simp [State.reg_setReg]
  · exact ((((State.Frame.refl _ _ _ s).setRegIn _ (by simp)).setRegIn _ (by simp)).setRegIn _ (by simp)).advanceIn
      (by simp)

/-- Settles O51: each switch is the one update, outside user mode. -/
theorem systemControl : Obligations.SystemControl := by
  refine ⟨fun s hu => ?_, fun s hu => ⟨privileged_of_not_user _ hu, _, privileged_of_not_user _ hu, ?_, ?_, ?_, ?_, ?_⟩⟩
  · have run (k : Out) : privileged s k = k := privileged_of_not_user k hu
    exact ⟨run _, run _, run _, run _, run _, run _, run _, run _, run _, run _⟩
  · simp [State.reg_advance_eq, State.reg_setReg]
  · simp [State.reg_advance_eq, State.reg_setReg]
  · simp [State.reg_advance_eq]
  · simp [State.reg_setReg]
  · exact ((((State.Frame.refl _ _ _ s).setRegIn _ (by simp)).setRegIn _ (by simp)).setRegIn _ (by simp)).advanceIn
      (by simp)

/-- Settles O52: the three cases of `waitState`. -/
theorem wait : Obligations.Wait := by
  intro num s hu
  have run : exec (.wait num) s = .next (waitState s.advance) := privileged_of_not_user _ hu
  refine ⟨fun hoff => ?_, fun hon hl => ?_, fun hon hl => ?_⟩
  · rw [run, waitState, if_pos (show s.advance.ioni = false from hoff)]
  · rw [run, waitState, if_neg (show ¬s.advance.ioni = false by simpa using hon), if_pos (show s.advance.pil = 0 from hl)]
  · rw [run, waitState, if_neg (show ¬s.advance.ioni = false by simpa using hon),
      if_neg (show ¬s.advance.pil = 0 from hl)]
    rfl

/-! ### Updates of different registers -/

theorem LevelRegs.put_comm (r : LevelRegs) {c e : Reg} (v w : Word) (h : c ≠ e) :
    (r.put c v).put e w = (r.put e w).put c v := by
  cases c <;> cases e <;> first | rfl | exact absurd rfl h

theorem State.setReg_comm (s : State) {c e : Reg} (v w : Word) (h : c ≠ e) :
    (s.setReg c v).setReg e w = (s.setReg e w).setReg c v := by
  simp [State.setReg, State.setLevel, State.level, LevelRegs.put_comm _ v w h]

/-- Ending an instruction and writing a register but P come in any order. -/
theorem State.setReg_advance (s : State) {c : Reg} (v : Word) (h : c ≠ .p) :
    s.advance.setReg c v = (s.setReg c v).advance := by
  rw [State.advance, State.advance, State.setReg_comm _ _ _ h.symm, State.pc_eq, State.pc_eq, State.reg_setReg_ne _ _ h.symm]

/-! ### Input and output -/

theorem ioInput_of_answer {addr v : Word} {s : State} (h : Config.deviceInput s.ioHistory addr = some v) :
    ioInput addr s.advance = ((s.recordTransfer addr v true).setReg .a v).advance.withdrawRequests := by
  have hdev : Config.deviceInput s.advance.ioHistory addr = some v := h
  have hcomm : (s.advance.recordTransfer addr v true).setReg .a v
      = ((s.recordTransfer addr v true).setReg .a v).advance 
      := (s.recordTransfer addr v true).setReg_advance (c := .a) v (by decide)
  rw [ioInput, hdev, ← hcomm]

theorem ioInput_of_silence {addr : Word} {s : State} (h : Config.deviceInput s.ioHistory addr = none) :
    ioInput addr s = ((({ s with free := s.free + 1 } : State).recordTransfer addr 0 false).setReg .a
      (Config.freeWord s.free)).raiseAfter 7 := by
  rw [ioInput, h]

/-- Settles O49. -/
theorem inputOutput : Obligations.InputOutput := by
  intro n s hu
  have meaning (addr : Word) {i : Instr} (hexec : exec i s = privileged s (.next (ioTransfer addr s.advance))) :
      exec i s = .next (ioTransfer addr s.advance) := hexec.trans (privileged_of_not_user _ hu)
  have table : ∀ p ∈ [(Instr.iox n, n.setWidth 16), (.ioxt, s.reg .t)],
      exec p.1 s = .next (ioTransfer p.2 s.advance) := by
    simp only [List.forall_mem_cons]
    exact ⟨meaning _ rfl, (meaning _ rfl), List.forall_mem_nil _⟩
  intro p hp
  rw [table p hp]
  refine ⟨fun hin => ?_, fun hout => ?_⟩
  · have hin : ioTransfer p.2 s.advance = ioInput p.2 s.advance := if_neg (by rw [hin]; exact Bool.false_ne_true)
    cases hd : Config.deviceInput s.ioHistory p.2 with
    | some v => exact congrArg Host.Outcome.next (hin.trans (ioInput_of_answer hd))
    | none =>
      refine ⟨_, congrArg Host.Outcome.next (hin.trans (ioInput_of_silence hd)), ?_, rfl, fun r hr => ?_, ?_, fun l hl => ?_⟩
      · rw [State.reg_setReg_ne _ _ (by decide)]
        exact s.reg_advance_p
      · simp only [List.mem_cons, List.not_mem_nil, or_false, not_or] at hr
        rw [State.reg_setReg_ne _ _ hr.1]
        exact s.reg_advance hr.2
      · rw [State.stsLow_setReg]
        exact s.stsLow_advance
      · exact (s.advance.level_setReg_ne .a _ hl).trans (s.level_setReg_ne .p _ hl)
  · have hout : ioTransfer p.2 s.advance = ioOutput p.2 s.advance := if_pos hout
    have ha : s.advance.reg .a = s.reg .a := s.reg_advance (by decide)
    rw [hout, ioOutput, ha, show s.advance.ioHistory = s.ioHistory from rfl]
    split <;> rfl

/-! ### IDENT -/

/-- IDENT of one level, by the list of its requests and the update that withdraws the first. -/
theorem identify_eq (l : Nat) (requests : List (BitVec 9)) (upd : State → List (BitVec 9) → State) (s : State)
    (hupd : ∀ u rest, (upd u rest).advance = upd u.advance rest) (hpid : ∀ u rest, (upd u rest).pid = u.pid) :
    (requests = [] → identify l requests (upd s.advance) s.advance = s.advance)
      ∧ ∀ d rest, requests = d :: rest →
        let u := (upd s rest).setReg .a (d.setWidth 16) |>.advance
        identify l requests (upd s.advance) s.advance
          = (if rest = [] then { u with pid := putBit s.pid l false } else u).selectLevel := by
  refine ⟨fun h => by rw [h]; rfl, fun d rest h => ?_⟩
  subst h
  have hu : (upd s.advance rest).setReg .a (d.setWidth 16) = ((upd s rest).setReg .a (d.setWidth 16)).advance := by
    rw [← hupd, State.setReg_advance _ _ (by decide)]
  have hp : (((upd s rest).setReg .a (d.setWidth 16)).advance).pid = s.pid := hpid s rest
  simp only [identify, hu, hp]

theorem exec_identify (l : Nat) (requests : List (BitVec 9)) (upd : State → List (BitVec 9) → State) {i : Instr}
    {s : State} (hu : s.userMode = false) (hupd : ∀ u rest, (upd u rest).advance = upd u.advance rest)
    (hpid : ∀ u rest, (upd u rest).pid = u.pid)
    (hexec : exec i s = privileged s (.next (identify l requests (upd s.advance) s.advance))) :
    (requests = [] → exec i s = .next s.advance) ∧ ∀ d rest, requests = d :: rest →
      let u := (upd s rest).setReg .a (d.setWidth 16) |>.advance
      exec i s = .next (if rest = [] then { u with pid := putBit s.pid l false } else u).selectLevel := by
  obtain ⟨hnil, hcons⟩ := identify_eq l requests upd s hupd hpid
  rw [privileged_of_not_user _ hu] at hexec
  exact ⟨fun h => by rw [hexec, hnil h], fun d rest h => by rw [hexec, hcons d rest h]⟩

/-! ### Writing internal registers -/

theorem exec_trr {s : State} (hu : s.userMode = false) (c : BitVec 4) :
    exec (.trr c) s = writeInternal c (s.reg .a) s.advance := privileged_of_not_user _ hu

/-- The control store after a word is written. -/
theorem controlWord_setControlWord (k : Nat) (v : Word) (j : Nat) :
    ∀ cs, controlWord (setControlWord cs k v) j = if j = k then v else controlWord cs j
  | [] => by simp [setControlWord, controlWord, eq_comm]
  | (a, w) :: cs => by
    have ih := controlWord_setControlWord k v j cs
    unfold setControlWord
    split
    · simp [controlWord, eq_comm]
    · split
      · next h =>
        subst h
        simp only [controlWord]
        by_cases hj : j = k
        · simp [hj]
        · simp [hj, Ne.symm hj]
      · next h =>
        simp only [controlWord, ih]
        by_cases hj : j = k
        · subst hj
          simp [Ne.symm h]
        · simp [hj]

/-- Settles O48. -/
theorem internalWrite : Obligations.InternalWrite := by
  refine ⟨fun s hu => ?_, fun s hu => ?_⟩
  · have run := exec_trr hu
    have hx : s.advance.reg .x = s.reg .x := s.reg_advance (by decide)
    refine ⟨run _, run _, run _, ⟨_, run _, rfl, fun l => ?_⟩, run _, run _, run _, ?_, run _, fun hm => ?_, fun hm => ?_, ?_⟩
    · show (s.pcr.set (pcrLevel (s.reg .a)).toNat (pcrOfWord s.cfg.ptMode (s.reg .a))
        (pcrLevel (s.reg .a)).isLt)[l.toNat]'l.isLt = _
      by_cases hl : l = pcrLevel (s.reg .a)
      · subst hl
        rw [Vector.getElem_set_self, if_neg (by simp [pcrLevel])]
        rfl
      · rw [Vector.getElem_set_ne _ _ fun e => hl (BitVec.eq_of_toNat_eq e.symm)]
        exact (if_pos hl).symm
    · simp only [List.forall_mem_cons]
      exact ⟨run _, run _, run _, run _, List.forall_mem_nil _⟩
    · refine ⟨{ s.advance with cs := setControlWord s.cs (s.reg .x).toNat (s.reg .a) }, ?_, rfl, ?_, fun k hk => ?_⟩
      · rw [run]
        simp only [writeInternal, hx, hm]
        rfl
      · exact (controlWord_setControlWord _ _ _ _).trans (if_pos rfl)
      · exact (controlWord_setControlWord _ _ _ _).trans (if_neg hk)
    · rw [run]
      simp only [writeInternal, hx, hm]
      rfl
    · simp only [List.forall_mem_cons]
      exact ⟨run _, run _, run _, List.forall_mem_nil _⟩
  · have other (f : Word → Word) (c : BitVec 4) (hc : c ∉ [0o1#4, 0o6, 0o7]) :
        changeInternal c f s.advance = .refused (.noSuchInternalRegister c) := by
      unfold changeInternal
      split <;> simp_all
    have change {mk : BitVec 4 → Instr} (f : Word → Word)
        (hexec : ∀ c, exec (mk c) s = privileged s (changeInternal c f s.advance)) :
        exec (mk 0o1) s = .next (s.advance.setStsLow ((f (s.stsLow.setWidth 16)).extractLsb' 0 8))
          ∧ exec (mk 0o6) s = .next ({ s.advance with pid := f s.pid ||| s.deviceLines } : State).selectLevel
          ∧ exec (mk 0o7) s = .next ({ s.advance with pie := f s.pie } : State).selectLevel
          ∧ ∀ c : BitVec 4, c ∉ [0o1, 0o6, 0o7] → exec (mk c) s = .refused (.noSuchInternalRegister c) := by
      simp only [privileged_of_not_user _ hu] at hexec
      refine ⟨(hexec _).trans ?_, hexec _, hexec _, fun c hc => (hexec c).trans (other f c hc)⟩
      simp only [changeInternal, State.stsLow_advance]
      rfl
    simp only [List.forall_mem_cons]
    exact ⟨change (mk := .mcl) (fun v => v &&& ~~~(s.reg .a)) fun _ => rfl,
      change (mk := .mst) (fun v => v ||| s.reg .a) fun _ => rfl, List.forall_mem_nil _⟩

/-! ### Reading internal registers -/

/-- A bit as a number of its place. -/
def bitValue (b : Bool) (n : Nat) : Word := if b then BitVec.ofNat 16 (2 ^ n) else 0

theorem toNat_bitValue (b : Bool) {n : Nat} (h : n < 16) : (bitValue b n).toNat = b.toNat * 2 ^ n := by
  have : 2 ^ n < 2 ^ 16 := Nat.pow_lt_pow_right (by decide) h
  cases b
  · simp [bitValue]
  · rw [bitValue, if_pos rfl, BitVec.toNat_ofNat, Nat.mod_eq_of_lt this, Bool.toNat_true, one_mul]

/-- Fields one above the other, as a number. -/
theorem toNat_append_add {v w : Nat} (x : BitVec v) (y : BitVec w) :
    (x ++ y).toNat = x.toNat * 2 ^ w + y.toNat := by
  rw [BitVec.toNat_append, ← Nat.shiftLeft_add_eq_or_of_lt y.isLt, Nat.shiftLeft_eq]

/-- What TRA reads: a value that agrees with `w` on the significant bits, with the state to go on in. -/
def Res.Reads (r : Res Word) (mask w : Word) (u : State) : Prop :=
  ∃ v k, r = .ok v { u with free := k } ∧ v &&& mask = w &&& mask

theorem Res.reads_ok (w mask : Word) (u : State) : (Res.ok w u).Reads mask w u := ⟨w, u.free, rfl, rfl⟩

theorem freshWord_reads (w : Word) (u : State) : (freshWord u).Reads 0 w u := ⟨_, _, rfl, by simp⟩

/-- The bits outside the open ones are those of the word. -/
theorem fillOpen_reads {openBits mask x w : Word} {u : State} (h : openBits &&& mask = 0) (hx : x &&& mask = w &&& mask) :
    (fillOpen openBits x u).Reads mask w u := by
  refine ⟨_, _, rfl, ?_⟩
  rw [← hx]
  clear hx
  ext i hi
  have hbit : (openBits[i] && mask[i]) = false := by
    simpa [BitVec.getLsbD_eq_getElem hi] using congrArg (·.getLsbD i) h
  cases hm : mask[i] <;> simp_all

theorem exec_tra_of_reads {c : BitVec 4} {mask w : Word} {s u : State} (hu : s.userMode = false)
    (h : (readInternal c s).Reads mask w u) :
    ∃ v k, exec (.tra c) s = .next (({ u with free := k } : State).setReg .a v).advance ∧ v &&& mask = w &&& mask := by
  obtain ⟨v, k, hr, hv⟩ := h
  refine ⟨v, k, (privileged_of_not_user _ hu).trans ?_, hv⟩
  rw [hr, Res.andThen_ok]

theorem panelWord_eq (p : Panel) :
    (1#1 ++ BitVec.ofBool p.fif ++ BitVec.ofBool p.dat ++ BitVec.ofBool p.rdy ++ 0#1 ++ p.cmnd ++ p.rpan : Word)
      = bitValue true 15 + bitValue p.fif 14 + bitValue p.dat 13 + bitValue p.rdy 12
        + p.cmnd.setWidth 16 * 256 + p.rpan.setWidth 16 := by
  have := p.cmnd.isLt
  have := p.rpan.isLt
  have := Bool.toNat_lt p.fif
  have := Bool.toNat_lt p.dat
  have := Bool.toNat_lt p.rdy
  refine BitVec.eq_of_toNat_eq ?_
  simp only [toNat_append_add]
  show _ = (bitValue true 15 + bitValue p.fif 14 + bitValue p.dat 13 + bitValue p.rdy 12
    + p.cmnd.setWidth 16 * 256 + p.rpan.setWidth 16).toNat
  simp [toNat_bitValue]
  omega

theorem stsWord_eq (s : State) : s.stsWord = bitValue s.ioni 15 + bitValue s.poni 14 + bitValue s.sexi 13
    + bitValue true 12 + s.pil.setWidth 16 * 256 + s.stsLow.setWidth 16 := by
  have := s.pil.isLt
  have := s.stsLow.isLt
  have := Bool.toNat_lt s.ioni
  have := Bool.toNat_lt s.poni
  have := Bool.toNat_lt s.sexi
  refine BitVec.eq_of_toNat_eq ?_
  simp only [State.stsWord, State.stsHigh, toNat_append_add]
  show _ = (bitValue s.ioni 15 + bitValue s.poni 14 + bitValue s.sexi 13 + bitValue true 12
    + s.pil.setWidth 16 * 256 + s.stsLow.setWidth 16).toNat
  simp [toNat_bitValue]
  omega

theorem pvlWord_eq (pvl : Level) : pvlWord pvl = encode (.irr pvl (.reg .p)) := by
  revert pvl
  decide

/-- Words that agree below and above a gap agree under a mask that is clear in the gap. -/
theorem and_mask_eq {x w mask : Word} {lo hi : Nat} (hlo : x.toNat % 2 ^ lo = w.toNat % 2 ^ lo)
    (hhi : x.toNat / 2 ^ hi = w.toNat / 2 ^ hi) (hm : ∀ i < 16, lo ≤ i → i < hi → mask.getLsbD i = false) :
    x &&& mask = w &&& mask := by
  refine BitVec.eq_of_getLsbD_eq fun i hi' => ?_
  rw [BitVec.getLsbD_and, BitVec.getLsbD_and]
  rcases Nat.lt_or_ge i lo with h | h
  · have := congrArg (·.testBit i) hlo
    simp only [Nat.testBit_mod_two_pow, h, decide_true, Bool.true_and] at this
    rw [show x.getLsbD i = w.getLsbD i from this]
  · rcases Nat.lt_or_ge i hi with h' | h'
    · rw [hm i hi' h h', Bool.and_false, Bool.and_false]
    · have := congrArg (·.testBit (i - hi)) hhi
      simp only [Nat.testBit_div_two_pow, Nat.sub_add_cancel h'] at this
      rw [show x.getLsbD i = w.getLsbD i from this]

theorem pgsWord_eq (g : Pgs) :
    (BitVec.ofBool g.ff ++ BitVec.ofBool g.pm ++ 0#4 ++ g.pt ++ g.vpn : Word)
      = bitValue g.ff 15 + bitValue g.pm 14 + g.pt.setWidth 16 * 64 + g.vpn.setWidth 16 := by
  have := g.pt.isLt
  have := g.vpn.isLt
  have := Bool.toNat_lt g.ff
  have := Bool.toNat_lt g.pm
  refine BitVec.eq_of_toNat_eq ?_
  simp only [toNat_append_add]
  show _ = (bitValue g.ff 15 + bitValue g.pm 14 + g.pt.setWidth 16 * 64 + g.vpn.setWidth 16).toNat
  simp [toNat_bitValue]
  omega

/-- With four tables bits 13 to 8 of PGS are open. -/
theorem pgsWord_four (g : Pgs) :
    (BitVec.ofBool g.ff ++ BitVec.ofBool g.pm ++ 0#6 ++ g.pt.extractLsb' 0 2 ++ g.vpn : Word) &&& 0o140377
      = (bitValue g.ff 15 + bitValue g.pm 14 + g.pt.setWidth 16 * 64 + g.vpn.setWidth 16) &&& 0o140377 := by
  have := g.pt.isLt
  have := g.vpn.isLt
  have := Bool.toNat_lt g.ff
  have := Bool.toNat_lt g.pm
  have hw : (bitValue g.ff 15 + bitValue g.pm 14 + g.pt.setWidth 16 * 64 + g.vpn.setWidth 16).toNat
      = g.ff.toNat * 32768 + g.pm.toNat * 16384 + g.pt.toNat * 64 + g.vpn.toNat := by
    simp [toNat_bitValue]
    omega
  have hx : (BitVec.ofBool g.ff ++ BitVec.ofBool g.pm ++ 0#6 ++ g.pt.extractLsb' 0 2 ++ g.vpn : Word).toNat
      = g.ff.toNat * 32768 + g.pm.toNat * 16384 + g.pt.toNat % 4 * 64 + g.vpn.toNat := by
    refine (toNat_append_add _ _).trans ?_
    simp only [toNat_append_add]
    simp
    omega
  refine and_mask_eq (lo := 8) (hi := 14) ?_ ?_ (by decide)
  · rw [hw, hx]
    omega
  · rw [hw, hx]
    omega

theorem toNat_and_levelField (a : Word) : (a &&& 0o170).toNat = (pcrLevel a).toNat * 8 := by
  have h : a &&& 0o170#16 = (pcrLevel a).setWidth 16 <<< 3 := by
    refine BitVec.eq_of_getLsbD_eq fun i hi => ?_
    interval_cases i <;> simp [pcrLevel]
  have := (pcrLevel a).isLt
  refine (congrArg BitVec.toNat h).trans ?_
  simp [Nat.shiftLeft_eq]
  omega

theorem pgcWord_sixteen (c : Pcr) (a : Word) :
    (0#1 ++ c.pt ++ c.apt ++ pcrLevel a ++ 0#1 ++ c.ring : Word)
      = c.pt.setWidth 16 * 2048 + c.apt.setWidth 16 * 128 + (a &&& 0o170) + c.ring.setWidth 16 := by
  have := c.pt.isLt
  have := c.apt.isLt
  have := c.ring.isLt
  have := (pcrLevel a).isLt
  have hl := toNat_and_levelField a
  refine BitVec.eq_of_toNat_eq ?_
  simp only [toNat_append_add]
  show _ = (c.pt.setWidth 16 * 2048 + c.apt.setWidth 16 * 128 + (a &&& 0o170) + c.ring.setWidth 16).toNat
  rw [BitVec.toNat_add, BitVec.toNat_add, hl]
  simp
  omega

theorem pgcWord_four (c : Pcr) (a : Word) :
    (0#5 ++ c.pt.extractLsb' 0 2 ++ c.apt.extractLsb' 0 2 ++ pcrLevel a ++ 0#1 ++ c.ring : Word)
      = (c.pt &&& 3).setWidth 16 * 512 + (c.apt &&& 3).setWidth 16 * 128 + (a &&& 0o170) + c.ring.setWidth 16 := by
  have low (p : BitVec 4) : (p &&& 3).toNat = p.toNat % 4 := by
    rw [BitVec.toNat_and]
    exact Nat.and_two_pow_sub_one_eq_mod p.toNat 2
  have := c.ring.isLt
  have := (pcrLevel a).isLt
  have hl := toNat_and_levelField a
  refine BitVec.eq_of_toNat_eq ?_
  simp only [toNat_append_add]
  show _ = ((c.pt &&& 3).setWidth 16 * 512 + (c.apt &&& 3).setWidth 16 * 128 + (a &&& 0o170)
    + c.ring.setWidth 16).toNat
  rw [BitVec.toNat_add, BitVec.toNat_add, hl]
  simp only [BitVec.toNat_add, BitVec.toNat_mul, BitVec.toNat_setWidth, low]
  simp
  omega

theorem readPans_reads (s : State) :
    (readPans s).Reads (if s.cfg.panelInstalled then 0o173777 else 0o100000)
      (bitValue s.cfg.panelInstalled 15 + bitValue s.panel.fif 14 + bitValue s.panel.dat 13 + bitValue s.panel.rdy 12
        + s.panel.cmnd.setWidth 16 * 256 + s.panel.rpan.setWidth 16)
      { s with panel := { s.panel with rdy := false } } := by
  unfold readPans
  dsimp only
  cases s.cfg.panelInstalled with
  | true => exact fillOpen_reads (by decide) (by rw [panelWord_eq])
  | false =>
    refine fillOpen_reads (by decide) (and_mask_eq (lo := 0) (hi := 15) ?_ ?_ (by decide))
    · simp [Nat.mod_one]
    · have := s.panel.cmnd.isLt
      have := s.panel.rpan.isLt
      have := Bool.toNat_lt s.panel.fif
      have := Bool.toNat_lt s.panel.dat
      have := Bool.toNat_lt s.panel.rdy
      simp [toNat_bitValue]
      omega

theorem readPgs_reads (s : State) :
    (readPgs s).Reads (match s.cfg.ptMode with
        | .sixteen => 0o141777
        | .four => 0o140377)
      (bitValue s.pgs.ff 15 + bitValue s.pgs.pm 14 + s.pgs.pt.setWidth 16 * 64 + s.pgs.vpn.setWidth 16) s := by
  unfold readPgs
  dsimp only
  cases s.cfg.ptMode with
  | sixteen => exact fillOpen_reads (by decide) (by rw [pgsWord_eq])
  | four => exact fillOpen_reads (by decide) (pgsWord_four s.pgs)

theorem readLatched_reads (w : Word) (s : State) : (readLatched w s).Reads (if s.peLocked then 0xFFFF else 0) w s := by
  unfold readLatched
  cases s.peLocked with
  | true => exact Res.reads_ok _ _ _
  | false => exact freshWord_reads _ _

/-- Settles O47: what `readInternal` reads for each code. -/
theorem internalRead : Obligations.InternalRead := by
  intro s hu
  have tra {c : BitVec 4} {mask w : Word} {u : State} (h : (readInternal c s).Reads mask w u) := exec_tra_of_reads hu h
  refine ⟨tra (readPans_reads s), tra ?_, tra (Res.reads_ok _ _ _), tra (readPgs_reads s), tra ?_,
    tra (Res.reads_ok _ _ { s with iic := 0 }), tra (Res.reads_ok _ _ _), tra (Res.reads_ok _ _ _), tra (freshWord_reads _ _),
    tra (Res.reads_ok _ _ _), tra (Res.reads_ok _ _ _), tra (readLatched_reads _ _), fun hm => tra ?_, fun hm => tra ?_,
    tra ?_, tra ?_, privileged_of_not_user _ hu⟩
  · exact stsWord_eq s ▸ Res.reads_ok _ _ _
  · exact pvlWord_eq s.pvl ▸ Res.reads_ok _ _ _
  · show (readPgc s).Reads _ _ s
    unfold readPgc
    rw [hm]
    exact fillOpen_reads (by decide) (by rw [pgcWord_sixteen]; rfl)
  · show (readPgc s).Reads _ _ s
    unfold readPgc
    rw [hm]
    exact fillOpen_reads (by decide) (by rw [pgcWord_four]; rfl)
  · obtain ⟨v, k, hr, hv⟩ := readLatched_reads s.pea s
    refine ⟨v, k, ?_, hv⟩
    show (readLatched s.pea s).bind _ = _
    rw [hr]
    rfl
  · show (readControl s).Reads _ _ s
    unfold readControl
    cases (s.reg .x).msb with
    | true => exact freshWord_reads _ _
    | false => exact Res.reads_ok _ _ _

end Sys2Proof.Machine

namespace Sys2Proof
open Machine

/-- Settles O50: the four levels alike. -/
theorem identify : Obligations.Identify := by
  intro s hu
  simp only [List.forall_mem_cons]
  exact ⟨exec_identify 10 s.req10 (fun u r => { u with req10 := r }) hu (fun _ _ => rfl) (fun _ _ => rfl) rfl,
    exec_identify 11 s.req11 (fun u r => { u with req11 := r }) hu (fun _ _ => rfl) (fun _ _ => rfl) rfl,
    exec_identify 12 s.req12 (fun u r => { u with req12 := r }) hu (fun _ _ => rfl) (fun _ _ => rfl) rfl,
    exec_identify 13 s.req13 (fun u r => { u with req13 := r }) hu (fun _ _ => rfl) (fun _ _ => rfl) rfl,
    List.forall_mem_nil _⟩

end Sys2Proof
end

section
/-! PROOF. Bytes (O37), physical memory (O53, O54) and the refusals that the spec states (O60). -/

namespace Sys2Proof.Machine

/-! ### Physical words -/

theorem txAddress_zero (k : BitVec 3) (s : State) :
    txAddress k 0 s = physAddr (bankReg (s.reg .t)) (s.reg .x + k.setWidth 16) := by
  simp [txAddress]

/-- An instruction that reads one physical word into a register through a function. -/
theorem exec_physLoad {i : Instr} {pa : PhysAddr} {c : Reg} (f : Word → Word) {s : State} (hw : s.memoryWf)
    (hu : s.userMode = false) (hc : c ≠ .p)
    (hexec : exec i s = privileged s ((readPhys pa s).andThen fun v u => .next (u.setReg c (f v)).advance)) :
    (readPhys pa s).Ends i s ∧ ∀ v u, readPhys pa s = .ok v u →
      ∃ t, exec i s = .next t ∧ t.reg c = f v ∧ t.reg .p = s.reg .p + 1 ∧ s.Frame [c, .p] [] [] t := by
  refine ⟨Res.ends_of_privileged hu (readPhys_refuses ..) hexec fun _ h => h, fun v u hv => ?_⟩
  have acc : s.Accessed u := readPhys_accessed hv
  refine ⟨(u.setReg c (f v)).advance, ?_, ?_, ?_, ((acc.frame hw _ _).setRegIn _ (by simp)).advanceIn (by simp)⟩
  · rw [hexec, privileged_of_not_user _ hu, hv, Res.andThen_ok]
  · simp [State.reg_advance_eq, hc]
  · simp [State.reg_setReg, acc.reg, hc.symm]

/-- An instruction that writes one physical word. -/
theorem exec_physStore {i : Instr} {pa : PhysAddr} {v : Word} {s : State} (hw : s.memoryWf) (hu : s.userMode = false)
    (hexec : exec i s = privileged s ((writePhys pa v s).andThen fun _ u => .next u.advance)) :
    (resolvePhys .write pa s).Ends i s ∧ ∀ g u, resolvePhys .write pa s = .ok g u →
      ∃ t, exec i s = .next t ∧ (g ≠ .absent → t.wordAt g = v) ∧ t.reg .p = s.reg .p + 1 ∧ s.Frame [.p] [] [g] t := by
  refine ⟨Res.ends_of_privileged hu (resolvePhys_refuses ..) hexec fun _ => Res.bind_of_stop, fun g u hg => ?_⟩
  cases resolvePhys_ok hg
  refine ⟨(store g v s).advance, ?_, fun hne => ?_, ?_,
    ((((State.Accessed.refl s).frameIn hw _ _ _).storeIn hw _ (by simp)).advanceIn (by simp))⟩
  · rw [hexec, privileged_of_not_user _ hu, writePhys, hg]
    rfl
  · rw [State.wordAt_advance, wordAt_store _ hw hne]
  · simp

/-- What the accesses of a physical read and write do, when they go on. -/
theorem modifyPhys_of_modifies {pa : PhysAddr} {v : Word} {g : Target} {s : State} (f : Word → Word)
    (h : s.modifiesPhys pa v g) : ∃ w, modifyPhys pa f s = .ok v (store g (f v) w) ∧ s.Accessed w := by
  obtain ⟨gr, u, w, hr, hg, rfl⟩ := h
  cases resolvePhys_ok hr
  cases resolvePhys_ok hg
  refine ⟨(peek gr s).2, ?_, peek_accessed gr s⟩
  rw [modifyPhys, hr, Res.bind_ok, hg]
  rfl

theorem modifyPhys_of_stop {pa : PhysAddr} {s : State} {o : Out} (f : Word → Word)
    (h : ((resolvePhys .read pa s).bind fun _ u => resolvePhys .write pa u) = .stop o) : modifyPhys pa f s = .stop o :=
  Res.bind_stop_of (fun _ _ h => Res.bind_of_stop h) h

theorem resolvePhys_both_refuses (k k' : AccessKind) (pa pa' : PhysAddr) (s : State) :
    ((resolvePhys k pa s).bind fun _ u => resolvePhys k' pa' u).Refuses s :=
  Res.refuses_bind (resolvePhys_refuses ..) (fun _ _ e => resolvePhys_ok e ▸ .refl s) fun _ _ => resolvePhys_refuses ..

/-- An instruction that reads and writes one physical word. -/
theorem physModify_ends {i : Instr} {pa : PhysAddr} {f : Word → Word} {k : Word → State → Out} {s : State}
    (hu : s.userMode = false) (hexec : exec i s = privileged s ((modifyPhys pa f s).andThen k)) :
    ((resolvePhys .read pa s).bind fun _ u => resolvePhys .write pa u).Ends i s :=
  Res.ends_of_privileged hu (resolvePhys_both_refuses ..) hexec fun _ => modifyPhys_of_stop f

/-- One that goes on to the next instruction. -/
theorem exec_physModify {i : Instr} {pa : PhysAddr} {v : Word} {g : Target} (f : Word → Word) {s : State}
    (hw : s.memoryWf) (hu : s.userMode = false) (h : s.modifiesPhys pa v g)
    (hexec : exec i s = privileged s ((modifyPhys pa f s).andThen fun _ u => .next u.advance)) :
    ∃ t, exec i s = .next t ∧ (g ≠ .absent → t.wordAt g = f v) ∧ t.reg .p = s.reg .p + 1 ∧ s.Frame [.p] [] [g] t := by
  obtain ⟨w, hm, acc⟩ := modifyPhys_of_modifies f h
  have wf : w.memoryWf := acc.memoryWf hw
  refine ⟨(store g (f v) w).advance, ?_, fun hne => ?_, ?_,
    ((acc.frameIn hw _ _ _).storeIn wf _ (by simp)).advanceIn (by simp)⟩
  · rw [hexec, privileged_of_not_user _ hu, hm, Res.andThen_ok]
  · rw [State.wordAt_advance, wordAt_store _ wf hne]
  · simp [acc.reg]

theorem exec_lbytp (s : State) : exec .lbytp s = privileged s ((readPhys (bytePhys s) s).andThen fun v u =>
    .next (u.setReg .a ((byteOf ((s.reg .x).getLsbD 0) v).setWidth 16)).advance) :=
  congrArg (privileged s) (Res.andThen_congr fun v u h => by
    simp only [textByte, (readPhys_accessed h).reg])

theorem exec_lbitp (s : State) : exec .lbitp s = privileged s ((readPhys (bitArrayPhys s) s).andThen fun v u =>
    .next (u.setFlag .k (v.getLsbD (bitArrayBit s))).advance) :=
  congrArg (privileged s) (Res.andThen_congr fun v u h => by
    rw [bitArrayBit, bitArrayBit, (readPhys_accessed h).reg, (readPhys_accessed h).cfg])

/-- LDDTX: the targets of the two words, then the words. -/
theorem exec_lddtx_of_ok {k : BitVec 3} {s u w : State} {g h : Target} (hw : s.memoryWf) (hu : s.userMode = false)
    (hg : resolvePhys .read (txAddress k 0 s) s = .ok g u) (hh : resolvePhys .read (txAddress k 1 s) u = .ok h w) :
    ∃ t, exec (.lddtx k) s = .next t ∧ (g ≠ .absent → t.reg .a = s.wordAt g) ∧ (h ≠ .absent → t.reg .d = s.wordAt h)
      ∧ t.reg .p = s.reg .p + 1 ∧ s.Frame [.a, .d, .p] [] [] t := by
  cases resolvePhys_ok hg
  cases resolvePhys_ok hh
  have acc : s.Accessed (peek h (peek g s).2).2 := (peek_accessed g s).trans (peek_accessed h _)
  refine ⟨(((peek h (peek g s).2).2.setReg .a (peek g s).1).setReg .d (peek h (peek g s).2).1).advance, ?_,
    fun hne => ?_, fun hne => ?_, ?_, (((acc.frame hw _ _).setRegIn _ (by simp)).setRegIn _ (by simp)).advanceIn (by simp)⟩
  · show privileged s ((resolveTx2 .read k s).andThen _) = _
    rw [privileged_of_not_user _ hu, resolveTx2, hg, Res.bind_ok, hh]
    rfl
  · simp [State.reg_advance_eq, State.reg_setReg, peek_of_ne_absent hne]
  · cases g <;> simp [State.reg_advance_eq, peek_of_ne_absent hne] <;> cases h <;> rfl
  · simp [State.reg_setReg, acc.reg]

/-- The two words of the TX format lie at different offsets. -/
theorem txAddress_extract_ne (k : BitVec 3) (s : State) :
    (txAddress k 0 s).extractLsb' 0 10 ≠ (txAddress k 1 s).extractLsb' 0 10 := by
  have low (b : Byte) (a : Word) : (physAddr b a).extractLsb' 0 10 = a.extractLsb' 0 10 := by
    refine BitVec.eq_of_getLsbD_eq fun i hi => ?_
    simp only [BitVec.getLsbD_extractLsb', Nat.zero_add]
    rw [getLsbD_physAddr, if_pos (by omega)]
  rw [txAddress_zero, txAddress, low, low]
  exact offset_add_ne _ (d := 1) (by decide) (by decide)

theorem exec_stdtx_of_ok {k : BitVec 3} {s u w : State} {g h : Target} (hw : s.memoryWf) (hu : s.userMode = false)
    (hg : resolvePhys .write (txAddress k 0 s) s = .ok g u) (hh : resolvePhys .write (txAddress k 1 s) u = .ok h w) :
    ∃ t, exec (.stdtx k) s = .next t ∧ (g ≠ .absent → t.wordAt g = s.reg .a) ∧ (h ≠ .absent → t.wordAt h = s.reg .d)
      ∧ t.reg .p = s.reg .p + 1 ∧ s.Frame [.p] [] [g, h] t := by
  cases resolvePhys_ok hg
  cases resolvePhys_ok hh
  have wf1 : (store g (s.reg .a) s).memoryWf := store_memoryWf hw
  have hgh (hne : g ≠ .absent) : g ≠ h := by
    rintro rfl
    have ha := pageOffset_physTarget hne hg
    rw [pageOffset_physTarget hne hh] at ha
    exact txAddress_extract_ne k s (Option.some.inj ha).symm
  refine ⟨(store h (s.reg .d) (store g (s.reg .a) s)).advance, ?_, fun hne => ?_, fun hne => ?_, ?_,
    ((((State.Accessed.refl s).frameIn hw _ _ _).storeIn hw _ (by simp)).storeIn wf1 _ (by simp)).advanceIn (by simp)⟩
  · show privileged s ((resolveTx2 .write k s).andThen _) = _
    rw [privileged_of_not_user _ hu, resolveTx2, hg, Res.bind_ok, hh]
    rfl
  · rw [State.wordAt_advance, wordAt_store_ne _ wf1 (hgh hne), wordAt_store _ hw hne]
  · rw [State.wordAt_advance, wordAt_store _ wf1 hne]
  · simp

/-- Checking two words of the TX format. -/
theorem resolveTx2_of_stop {kind : AccessKind} {k : BitVec 3} {s : State} {o : Out}
    (h : ((resolvePhys kind (txAddress k 0 s) s).bind fun _ u => resolvePhys kind (txAddress k 1 s) u) = .stop o) :
    resolveTx2 kind k s = .stop o := by
  rcases Res.bind_eq_stop h with h | ⟨g, u, h1, h2⟩
  · rw [resolveTx2, h, Res.bind_stop]
  · cases resolvePhys_ok h1
    rw [resolveTx2, h1, Res.bind_ok, h2, Res.bind_stop]

/-- Settles O53. -/
theorem physicalLoads : Obligations.PhysicalLoads := by
  intro k s hw hu
  dsimp only
  refine ⟨?_, fun v u hv => ?_, fun g h u w hg hh => exec_lddtx_of_ok hw hu ?_ hh,
    Res.ends_of_privileged hu (readPhys_refuses ..) rfl fun _ h => h,
    Res.ends_of_privileged hu (resolvePhys_both_refuses ..) rfl fun o h => resolveTx2_of_stop ?_⟩
  · have tx {i : Instr} {c : Reg} (f : Word → Word) (hc : c ≠ .p)
        (hexec : exec i s = loadPhysical k (fun v s => s.setReg c (f v)) s) :=
      exec_physLoad f hw hu hc (hexec.trans (by rw [loadPhysical, txAddress_zero]))
    simp only [List.forall_mem_cons]
    exact ⟨exec_physLoad _ hw hu (by decide) rfl, tx _ (by decide) rfl, tx _ (by decide) rfl, tx _ (by decide) rfl,
      exec_physLoad _ hw hu (by decide) rfl, exec_physLoad _ hw hu (by decide) rfl,
      exec_physLoad _ hw hu (by decide) rfl, exec_physLoad _ hw hu (by decide) rfl,
      exec_physLoad _ hw hu (by decide) rfl, exec_physLoad _ hw hu (by decide) (exec_lbytp s), List.forall_mem_nil _⟩
  · have acc : s.Accessed u := readPhys_accessed hv
    refine ⟨(u.setFlag .k (v.getLsbD (bitArrayBit s))).advance, ?_, ?_, ?_,
      ((acc.frame hw _ _).setFlagIn _ (by simp)).advanceIn (by simp)⟩
    · rw [exec_lbitp, privileged_of_not_user _ hu]
      exact congrArg (Res.andThen · _) hv
    · rw [State.flag_advance, State.flag_setFlag_same]
      exact congrArg v.getLsbD (bitArrayBit_eq s)
    · simp [acc.reg]
  · rw [txAddress_zero]
    exact hg
  · rw [txAddress_zero]
    exact h

/-- Settles O54. -/
theorem physicalStores : Obligations.PhysicalStores := by
  intro k s hw hu
  dsimp only
  refine ⟨?_, fun g h u w hg hh => exec_stdtx_of_ok hw hu ?_ hh, fun v g hm => ?_, fun v g hm => ?_, fun v g hm => ?_,
    Res.ends_of_privileged hu (resolvePhys_both_refuses ..) rfl fun o h => resolveTx2_of_stop ?_, ?_⟩
  · have tx {i : Instr} {v : Word} (hexec : exec i s = storePhysical k v s) :=
      exec_physStore hw hu (hexec.trans (by rw [storePhysical, txAddress_zero]))
    simp only [List.forall_mem_cons]
    exact ⟨exec_physStore hw hu rfl, tx rfl, tx rfl, exec_physStore hw hu rfl, exec_physStore hw hu rfl,
      exec_physStore hw hu rfl, exec_physStore hw hu rfl, List.forall_mem_nil _⟩
  · rw [txAddress_zero]
    exact hg
  · obtain ⟨t, he, hword, rest⟩ := exec_physModify (i := .sbitp)
      (fun w => putBit w (bitArrayBit s) (s.flag .k)) hw hu hm rfl
    refine ⟨t, he, fun hne => (hword hne).trans ?_, rest⟩
    exact congrArg (putBit v · (s.flag .k)) (bitArrayBit_eq s)
  · exact exec_physModify (i := .sbytp) (fun w => putByte (textByte s).odd w (oddByte (s.reg .a))) hw hu hm rfl
  · obtain ⟨w, hx, acc⟩ := modifyPhys_of_modifies (fun _ => 0xFFFF) hm
    have wf : w.memoryWf := acc.memoryWf hw
    refine ⟨((store g 0xFFFF w).setReg .a v).advance, ?_, ?_, fun hne => ?_, ?_,
      (((acc.frameIn hw _ _ _).storeIn wf _ (by simp)).setRegIn _ (by simp)).advanceIn (by simp)⟩
    · show privileged s ((modifyPhys _ _ s).andThen _) = _
      rw [privileged_of_not_user _ hu]
      exact congrArg (Res.andThen · _) hx
    · simp [State.reg_advance_eq]
    · simp [wordAt_store _ wf hne]
    · simp [State.reg_setReg, acc.reg]
  · rw [txAddress_zero]
    exact h
  · simp only [List.forall_mem_cons]
    exact ⟨physModify_ends hu rfl, physModify_ends hu rfl, physModify_ends hu rfl, List.forall_mem_nil _⟩

/-! ### Bytes -/

/-- Settles O37. -/
theorem byteAccess : Obligations.ByteAccess := by
  intro s hw
  dsimp only
  refine ⟨fun v u hv => ?_, fun v g hm => ?_, ?_, ?_⟩
  · have acc : s.Accessed u := readVirt_accessed hv
    refine ⟨(u.setReg .a ((byteOf ((s.reg .x).getLsbD 0) v).setWidth 16)).advance, ?_, ?_, ?_,
      ((acc.frame hw _ _).setRegIn _ (by simp)).advanceIn (by simp)⟩
    · show ((readVirt s.dataTable _ s).bind _).andThen _ = _
      rw [State.dataTable_eq, textByte, hv]
      rfl
    · rw [State.reg_advance _ (by decide), State.reg_setReg_same]
      rfl
    · simp [State.reg_setReg, acc.reg]
  · obtain ⟨w, hx, acc⟩ := modifyWord_of_modifies (fun w => putByte ((s.reg .x).getLsbD 0) w (oddByte (s.reg .a))) hm
    have wf : w.memoryWf := acc.memoryWf hw
    refine ⟨(store g (putByte ((s.reg .x).getLsbD 0) v (oddByte (s.reg .a))) w).advance, ?_, fun hne => ?_, ?_,
      ((acc.frameIn hw _ _ _).storeIn wf _ (by simp)).advanceIn (by simp)⟩
    · show (modifyWord s.dataTable _ _ s).andThen _ = _
      rw [State.dataTable_eq]
      exact congrArg (Res.andThen · _) hx
    · rw [State.wordAt_advance, wordAt_store _ wf hne]
      rfl
    · simp [acc.reg]
  · exact Res.ends_of_andThen (readVirt_refuses ..) rfl fun _ => Res.bind_of_stop
  · exact Res.ends_of_andThen (both_refuses ..) rfl fun _ h => modifyWord_of_stop _ h

/-! ### Stated refusals -/

theorem withBit_refused {bn : BitVec 4} (h : 8 ≤ bn) (s : State) (k : State → State) :
    withBit bn .sts s k = .refused (.statusBitNotAddressable bn) := if_pos ⟨rfl, h⟩

theorem decimalGuard_bit14 {s : State} (h : (s.reg .d).getLsbD 14 = true ∨ (s.reg .t).getLsbD 14 = true) (odd : Bool)
    (k : Out) : decimalGuard odd s k = .refused .decimalDescriptorBit14 :=
  if_pos (by rwa [decimalBit14, Bool.or_eq_true])

theorem decimalGuard_of_not_bit14 {s : State} (hd : (s.reg .d).getLsbD 14 = false) (ht : (s.reg .t).getLsbD 14 = false)
    (odd : Bool) (k : Out) : decimalGuard odd s k = if odd then .refused .decimalOddLength else k :=
  if_neg (by rw [decimalBit14, hd, ht]; decide)

/-- The length of a field is odd when bit 0 of its descriptor is set. -/
theorem decimalField_odd {d2 : Word} (d1 : Word) (h : d2.getLsbD 0 = true) :
    ((decimalField d1 d2).length % 2 == 1) = true := by
  have h1 : d2.toNat % 2 = 1 := by
    rw [BitVec.getLsbD, Nat.testBit_zero, decide_eq_true_eq] at h
    exact h
  simp [decimalField]
  omega

/-- Settles O60. -/
theorem statedRefusals : Obligations.StatedRefusals := by
  refine ⟨fun s hu => privileged_of_not_user _ hu, fun bn s hbn => ?_, fun s => ⟨fun h => if_pos h, fun h => ?_⟩,
    fun s => ⟨fun h => ?_, fun hd ht => ⟨fun h => ?_, fun h => ?_⟩⟩⟩
  · have refused := withBit_refused hbn s
    simp only [List.forall_mem_cons]
    exact ⟨refused _, refused _, refused _, refused _, refused _, refused _, refused _, refused _, refused _, refused _,
      (refused _ : execBldc bn .sts s = _), (refused _ : execBlda bn .sts s = _), (refused _ : execBanc bn .sts s = _),
      (refused _ : execBand bn .sts s = _), (refused _ : execBorc bn .sts s = _), (refused _ : execBora bn .sts s = _),
      List.forall_mem_nil _⟩
  · have hb : descriptorBit13 s = true := by rwa [descriptorBit13, Bool.or_eq_true]
    exact ⟨if_pos hb, if_pos hb⟩
  · simp only [List.forall_mem_cons]
    exact ⟨decimalGuard_bit14 h _ _, decimalGuard_bit14 h _ _, decimalGuard_bit14 h _ _, decimalGuard_bit14 h _ _,
      decimalGuard_bit14 h _ _, decimalGuard_bit14 h _ _, List.forall_mem_nil _⟩
  all_goals
    have refused {i : Instr} {odd : Bool} {k : Out} (ho : odd = true) (hexec : exec i s = decimalGuard odd s k) :
        exec i s = .refused .decimalOddLength :=
      hexec.trans ((decimalGuard_of_not_bit14 hd ht odd k).trans (if_pos ho))
    simp only [List.forall_mem_cons]
  · have ho : oddBcd s = true := Bool.or_eq_true _ _ ▸ .inl (decimalField_odd _ h)
    exact ⟨refused ho rfl, refused ho rfl, refused ho rfl, refused (decimalField_odd _ h) rfl, refused ho rfl,
      List.forall_mem_nil _⟩
  · have ho : oddBcd s = true := Bool.or_eq_true _ _ ▸ .inr (decimalField_odd _ h)
    exact ⟨refused ho rfl, refused ho rfl, refused ho rfl, refused (decimalField_odd _ h) rfl, refused ho rfl,
      List.forall_mem_nil _⟩

end Sys2Proof.Machine
end

section
/-! PROOF. Lists of stores, and the registers of other levels: IRR, IRW, LRB, SRB (O46). -/

namespace Sys2Proof.Machine

/-! ### Lists of stores -/

theorem storeList_cons (g : Target) (gs : List Target) (v : Word) (vs : List Word) (s : State) :
    storeList (g :: gs) (v :: vs) s = storeList gs vs (store g v s) := rfl

theorem storeList_memoryWf : ∀ (gs : List Target) (vs : List Word) {s : State}, s.memoryWf → (storeList gs vs s).memoryWf
  | [], _, _, h => h
  | _ :: _, [], _, h => h
  | _ :: gs, _ :: vs, _, h => storeList_memoryWf gs vs (store_memoryWf h)

theorem State.Frame.storeListIn {rs : List Reg} {fs : List Flag} {gs : List Target} {s : State} :
    ∀ (ts : List Target) (vs : List Word) {t : State}, s.Frame rs fs gs t → t.memoryWf → ts ⊆ gs →
      s.Frame rs fs gs (storeList ts vs t)
  | [], _, _, h, _, _ => h
  | _ :: _, [], _, h, _, _ => h
  | _ :: ts, v :: vs, _, h, hw, hg =>
    State.Frame.storeListIn ts vs (h.storeIn hw v (hg List.mem_cons_self)) (store_memoryWf hw)
      fun _ ht => hg (List.mem_cons_of_mem _ ht)

theorem wordAt_storeList_of_notMem : ∀ (gs : List Target) (vs : List Word) {s : State} {h : Target}, s.memoryWf → h ∉ gs →
    (storeList gs vs s).wordAt h = s.wordAt h
  | [], _, _, _, _, _ => rfl
  | _ :: _, [], _, _, _, _ => rfl
  | g :: gs, v :: vs, s, h, hw, hg => by
    rw [List.mem_cons, not_or] at hg
    rw [storeList_cons, wordAt_storeList_of_notMem gs vs (store_memoryWf hw) hg.2, wordAt_store_ne v hw hg.1]

/-- Different targets hold the words stored. -/
theorem map_wordAt_storeList {gs : List Target} (hn : gs.Nodup) (ha : .absent ∉ gs) {vs : List Word} {s : State}
    (hw : s.memoryWf) (hl : gs.length = vs.length) : gs.map (storeList gs vs s).wordAt = vs := by
  induction gs generalizing vs s with
  | nil => exact (List.length_eq_zero_iff.mp hl.symm).symm
  | cons g gs ih =>
    obtain ⟨v, vs, rfl⟩ := List.exists_cons_of_length_eq_add_one hl.symm
    rw [List.nodup_cons] at hn
    rw [List.mem_cons, not_or] at ha
    rw [storeList_cons, List.map_cons, wordAt_storeList_of_notMem gs vs (store_memoryWf hw) hn.1,
      wordAt_store v hw (Ne.symm ha.1), ih hn.2 ha.2 (store_memoryWf hw) (Nat.succ.inj hl)]

@[simp] theorem reg_storeList : ∀ (gs : List Target) (vs : List Word) (s : State) (c : Reg),
    (storeList gs vs s).reg c = s.reg c
  | [], _, _, _ => rfl
  | _ :: _, [], _, _ => rfl
  | _ :: gs, _ :: vs, s, c => by rw [storeList_cons, reg_storeList gs vs, reg_store]

theorem pageOffset_mapRes {kind : AccessKind} {tbl : Table} : ∀ {vas : List Word} {s u : State} {gs : List Target},
    mapRes (resolve kind tbl) vas s = .ok gs u → .absent ∉ gs →
      gs.map Target.pageOffset = vas.map fun a => some (a.extractLsb' 0 10)
  | [], _, _, _, h, _ => by cases h; rfl
  | va :: vas, s, u, gs, h, ha => by
    obtain ⟨g, v, hg, hrest⟩ := Res.bind_eq_ok h
    obtain ⟨hs, w, hgs, he⟩ := Res.bind_eq_ok hrest
    cases he
    rw [List.mem_cons, not_or] at ha
    rw [List.map_cons, List.map_cons, pageOffset_resolve (Ne.symm ha.1) hg, pageOffset_mapRes hgs ha.2]

/-- The words of a block lie at different offsets, so they have different targets. -/
theorem nodup_of_consecutive {kind : AccessKind} {tbl : Table} {a : Word} {n : Nat} {s u : State} {gs : List Target}
    (hn : n ≤ 1024) (h : mapRes (resolve kind tbl) (consecutive a n) s = .ok gs u) (ha : .absent ∉ gs) : gs.Nodup := by
  refine List.Nodup.of_map Target.pageOffset ?_
  rw [pageOffset_mapRes h ha, consecutive, List.map_map, List.nodup_map_iff_inj_on List.nodup_range]
  intro i hi j hj hij
  rw [List.mem_range] at hi hj
  have := congrArg BitVec.toNat (Option.some.inj hij)
  simp at this
  omega

theorem mapRes_resolve_accessed {kind : AccessKind} {tbl : Table} {vas : List Word} {s u : State} {gs : List Target}
    (h : mapRes (resolve kind tbl) vas s = .ok gs u) : s.Accessed u ∧ gs.length = vas.length :=
  mapRes_accessed (fun _ _ _ _ e => resolve_accessed e) h

/-! ### Registers of levels -/

theorem readLevelRegister_eq (r : LevelRegs) (dr : StsOrReg) : readLevelRegister r dr = match dr with
    | .sts => r.sts.setWidth 16
    | .reg c => r.get c := by
  cases dr <;> rfl

theorem exec_irr {l : Level} {dr : StsOrReg} {s : State} (hu : s.userMode = false) :
    ∃ t, exec (.irr l dr) s = .next t ∧ t.reg .a = readLevelRegister (s.level l) dr ∧ t.reg .p = s.reg .p + 1
      ∧ s.Frame [.a, .p] [] [] t :=
  ⟨(s.setReg .a (readLevelRegister (s.level l) dr)).advance, privileged_of_not_user _ hu, by simp [State.reg_advance_eq],
    by simp [State.reg_setReg], ((State.Frame.refl _ _ _ s).setRegIn _ (by simp)).advanceIn (by simp)⟩

/-- The state after IRW. -/
def State.afterIrw (s : State) (l : Level) (dr : StsOrReg) : State :=
  s.advance.setLevel l (writeLevelRegister (s.advance.level l) dr (s.reg .a))

theorem exec_irw {l : Level} {dr : StsOrReg} {s : State} (hu : s.userMode = false) :
    exec (.irw l dr) s = .next (s.afterIrw l dr) := privileged_of_not_user _ hu

theorem level_afterIrw (s : State) (l : Level) (dr : StsOrReg) :
    (s.afterIrw l dr).level l = writeLevelRegister (s.advance.level l) dr (s.reg .a) := State.level_setLevel_same ..

theorem reg_setLevel_of_ne {s : State} {l : Level} (r : LevelRegs) (h : l ≠ s.pil) (c : Reg) :
    (s.setLevel l r).reg c = s.reg c := by
  unfold State.reg
  rw [State.setLevel_pil, State.level_setLevel_ne _ _ (Ne.symm h)]

theorem stsLow_setLevel_of_ne {s : State} {l : Level} (r : LevelRegs) (h : l ≠ s.pil) :
    (s.setLevel l r).stsLow = s.stsLow := by
  unfold State.stsLow
  rw [State.setLevel_pil, State.level_setLevel_ne _ _ (Ne.symm h)]

/-- The registers of a level after P has counted up, P of the current level apart. -/
theorem get_level_advance_of_ne {s : State} {l : Level} {r : Reg} (h : r ≠ .p ∨ l ≠ s.pil) :
    (s.advance.level l).get r = (s.level l).get r := by
  rcases h with h | h
  · exact get_level_advance s l h
  · rw [State.advance, State.level_setReg_ne _ _ _ h]

/-- What LRB leaves, when all words are read. -/
theorem exec_lrb_of_reads {l : Level} {s u : State} {p x t a d k sts b : Word} (hw : s.memoryWf) (hu : s.userMode = false)
    (hr : readList s.dataTable (consecutive (s.reg .x) 8) s = .ok [p, x, t, a, d, k, sts, b] u) :
    ∃ n, exec (.lrb l) s = .next n
      ∧ n.level l = { p := if l = s.pil then s.reg .p + 1 else p, x := x, t := t, a := a, d := d, l := k
                      sts := sts.extractLsb' 0 8, b := b }
      ∧ (l ≠ s.pil → n.reg .p = s.reg .p + 1 ∧ n.stsLow = s.stsLow ∧ ∀ r, r ≠ .p → n.reg r = s.reg r)
      ∧ (∀ k, k ≠ l → k ≠ s.pil → n.level k = s.level k)
      ∧ { n with levels := s.levels, ptab := s.ptab, free := s.free } = s ∧ s.pageBitsOnly n := by
  have acc : s.Accessed u := readList_accessed hr
  have hpil : u.pil = s.pil := by rw [acc.eq]
  refine ⟨u.advance.setLevel l (loadBlock (u.advance.level l) (l != u.advance.pil) [p, x, t, a, d, k, sts, b]), ?_, ?_,
    fun hl => ⟨?_, ?_, fun r hr => ?_⟩, fun k hk hc => ?_, ?_, (acc.bits hw.2).2⟩
  · show privileged s ((readList s.dataTable (consecutive (s.reg .x) 8) s).andThen _) = _
    rw [privileged_of_not_user _ hu, hr]
    rfl
  · rw [State.level_setLevel_same, State.advance_pil, hpil, loadBlock]
    by_cases hl : l = s.pil
    · subst hl
      have hp : (u.advance.level s.pil).p = s.reg .p + 1 := by
        rw [← acc.reg, ← State.reg_advance_p, ← hpil]
        rfl
      rw [bne_self_eq_false, if_neg Bool.false_ne_true, if_pos rfl, hp]
      rfl
    · rw [bne_iff_ne.mpr hl, if_pos rfl, if_neg hl]
      rfl
  · rw [reg_setLevel_of_ne _ (by rwa [State.advance_pil, hpil]), State.reg_advance_p, acc.reg]
  · rw [stsLow_setLevel_of_ne _ (by rwa [State.advance_pil, hpil]), State.stsLow_advance]
    rw [State.stsLow, hpil, acc.level]
    rfl
  · rw [reg_setLevel_of_ne _ (by rwa [State.advance_pil, hpil]), State.reg_advance _ hr, acc.reg]
  · rw [State.level_setLevel_ne _ _ hk, State.advance, State.level_setReg_ne _ _ _ (by rwa [hpil]), acc.level]
  · rw [acc.eq]
    rfl

/-- What SRB leaves, when all words are checked. -/
theorem exec_srb_of_writes {l : Level} {s u : State} {gs : List Target} (hw : s.memoryWf) (hu : s.userMode = false)
    (hg : mapRes (resolve .write s.dataTable) (consecutive (s.reg .x) 8) s = .ok gs u) :
    ∃ n, exec (.srb l) s = .next n
      ∧ (.absent ∉ gs → gs.map n.wordAt =
        storeBlock (s.level l) (if l = s.pil then s.reg .p + 1 else (s.level l).p))
      ∧ n.reg .p = s.reg .p + 1 ∧ s.Frame [.p] [] gs n := by
  obtain ⟨acc, hlen⟩ := mapRes_resolve_accessed hg
  have wf : u.memoryWf := acc.memoryWf hw
  let ws := storeBlock (s.level l) (if l = s.pil then s.reg .p + 1 else (s.level l).p)
  refine ⟨(storeList gs ws u).advance, ?_, fun ha => ?_, ?_,
    ((acc.frameIn hw _ _ _).storeListIn gs ws wf (List.Subset.refl _)).advanceIn (by simp)⟩
  · show privileged s ((writeList s.dataTable (consecutive (s.reg .x) 8) ws s).andThen _) = _
    rw [privileged_of_not_user _ hu, writeList, hg]
    rfl
  · rw [show (storeList gs ws u).advance.wordAt = (storeList gs ws u).wordAt from funext fun g => State.wordAt_advance ..]
    exact map_wordAt_storeList (nodup_of_consecutive (by decide) hg ha) ha wf hlen
  · simp [acc.reg]

/-- Settles O46. -/
theorem levelRegisters : Obligations.LevelRegisters := by
  refine ⟨fun l dr s hu => ⟨?_, s.afterIrw l dr, exec_irw hu, ?_, fun h => ?_, fun h => ⟨fun r hr => ?_, ?_⟩,
      fun k hk hc => ?_, rfl⟩,
    fun l s hw hu => ⟨fun p x t a d k sts b u hr => ?_, fun gs u hg => ?_, ?_, ?_⟩⟩
  · obtain ⟨t, he, ha, rest⟩ := exec_irr (l := l) (dr := dr) hu
    exact ⟨t, he, ha.trans (readLevelRegister_eq _ dr), rest⟩
  · rw [level_afterIrw]
    cases dr with
    | sts => exact ⟨rfl, fun r hr => (get_level_advance_of_ne hr ▸ by cases r <;> rfl)⟩
    | reg r =>
      refine ⟨LevelRegs.get_put_same .., ?_, fun r' hr' hp => ?_⟩
      · exact (LevelRegs.put_sts _ _ _).trans (sts_level_advance s l)
      · exact (LevelRegs.get_put_ne _ _ hr').trans (get_level_advance_of_ne hp)
  · by_cases hl : l = s.pil
    · subst hl
      cases dr with
      | sts => exact (congrArg LevelRegs.p (level_afterIrw s s.pil .sts)).trans s.reg_advance_p
      | reg r =>
        have hr : Reg.p ≠ r := fun e => h ⟨rfl, e ▸ rfl⟩
        exact (congrArg (LevelRegs.get · .p) (level_afterIrw s s.pil (.reg r))).trans
          ((LevelRegs.get_put_ne _ _ hr).trans s.reg_advance_p)
    · exact (reg_setLevel_of_ne (s := s.advance) _ hl .p).trans s.reg_advance_p
  · exact (reg_setLevel_of_ne (s := s.advance) _ h r).trans (State.reg_advance _ hr)
  · exact (stsLow_setLevel_of_ne (s := s.advance) _ h).trans s.stsLow_advance
  · rw [State.afterIrw, State.level_setLevel_ne _ _ hk, State.advance, State.level_setReg_ne _ _ _ hc]
  · exact exec_lrb_of_reads hw hu hr
  · exact exec_srb_of_writes hw hu hg
  · exact Res.ends_of_privileged hu (readList_refuses ..) rfl fun _ h => h
  · exact Res.ends_of_privileged hu (mapRes_refuses (fun _ _ => resolve_refuses ..) (fun _ _ _ _ e => resolve_accessed e) ..)
      rfl fun _ => Res.bind_of_stop

end Sys2Proof.Machine
end

section
/-! PROOF. Page translation in both modes (O15). -/

namespace Sys2Proof.Machine

/-- The judgement that translation makes of its entry. -/
def State.verdict (s : State) (kind : AccessKind) (tbl : Table) (va : Word) : PageVerdict :=
  let e := entryNumber s.cfg.ptMode (s.tableNumber tbl) (pageOf va)
  judgePage s.cfg (s.entryWord0 e) (s.entryWord1 e) kind s.curPcr.ring s.sexi

/-- The state after the marks of a translation. -/
def State.marked (s : State) (tbl : Table) (va : Word) (setPgu setWip : Bool) : State :=
  let e := entryNumber s.cfg.ptMode (s.tableNumber tbl) (pageOf va)
  { s with ptab := Memory.setWord s.ptab (2 * e.toNat) (markEntry (s.entryWord0 e) setPgu setWip) }

section
variable {kind : AccessKind} {tbl : Table} {va : Word} {s : State}

theorem translate_of_allowed {page : BitVec 14} {p w : Bool} (h : s.verdict kind tbl va = .allowed page p w) :
    translate kind tbl va s = .ok (page ++ va.extractLsb' 0 10) (s.marked tbl va p w) := by
  unfold State.verdict at h
  unfold translate
  dsimp only at h ⊢
  rw [h]
  rfl

theorem translate_of_pageFault (h : s.verdict kind tbl va = .pageFault) :
    translate kind tbl va s = .stop (raisePaging 3 kind tbl va false s) := by
  unfold State.verdict at h
  unfold translate
  dsimp only at h ⊢
  rw [h]

theorem translate_of_violation {pm : Bool} (h : s.verdict kind tbl va = .violation pm) :
    translate kind tbl va s = .stop (raisePaging 2 kind tbl va pm s) := by
  unfold State.verdict at h
  unfold translate
  dsimp only at h ⊢
  rw [h]

/-- A translation that goes on comes from an allowed access. -/
theorem verdict_of_translate {pa : PhysAddr} {t : State} (h : translate kind tbl va s = .ok pa t) :
    ∃ page p w, s.verdict kind tbl va = .allowed page p w ∧ pa = page ++ va.extractLsb' 0 10 := by
  cases hv : s.verdict kind tbl va with
  | allowed page p w =>
    rw [translate_of_allowed hv] at h
    cases h
    exact ⟨page, p, w, rfl, rfl⟩
  | pageFault =>
    rw [translate_of_pageFault hv] at h
    cases h
  | violation pm =>
    rw [translate_of_violation hv] at h
    cases h

/-- With paging on an access outside the page-table range of ring 3 is translated. -/
theorem resolve_translated (hp : s.poni = true)
    (h : ¬(s.curPcr.ring = 3 ∧ inTableRange s.cfg.ptMode va = true)) :
    resolve kind tbl va s = (translate kind tbl va s).bind (resolveMemory kind) := by
  rw [resolve, if_neg (by simp [hp]), if_neg (by simpa using h)]

end

theorem judgePage_congr {c c' : Config} (h : c.pageRules = c'.pageRules) (w0 w1 : Word) (kind : AccessKind)
    (ring : BitVec 2) (sexi : Bool) : judgePage c w0 w1 kind ring sexi = judgePage c' w0 w1 kind ring sexi := by
  unfold judgePage
  rw [h]

theorem judgePage_of_reference {c : Config} (h : c.pageRules = .reference) (w0 w1 : Word) (kind : AccessKind)
    (ring : BitVec 2) (sexi : Bool) : judgePage c w0 w1 kind ring sexi = judgeReference w0 w1 kind ring sexi := by
  unfold judgePage
  rw [h]

/-- The number of the first word of an entry within the page tables (R99). -/
theorem two_mul_entryNumber (mode : PtMode) (number : BitVec 4) (va : Word) :
    2 * (entryNumber mode number (pageOf va)).toNat = (match mode with
      | .sixteen => 0
      | .four => 0o3000) + 2 * (64 * (match mode with
        | .sixteen => number
        | .four => number &&& 3).toNat + va.toNat / 1024) := by
  have hv : (pageOf va).toNat = va.toNat / 1024 := by
    have := va.isLt
    simp [pageOf, Nat.shiftRight_eq_div_pow]
    omega
  cases mode with
  | sixteen =>
    show 2 * (number ++ pageOf va : BitVec 10).toNat = _
    rw [toNat_append_add, hv]
    show _ = 0 + 2 * (64 * number.toNat + va.toNat / 1024)
    omega
  | four =>
    have hn : (number &&& 3).toNat = number.toNat % 4 := by
      rw [BitVec.toNat_and]
      exact Nat.and_two_pow_sub_one_eq_mod number.toNat 2
    show 2 * (3#2 ++ number.extractLsb' 0 2 ++ pageOf va : BitVec 10).toNat
      = 1536 + 2 * (64 * (number &&& 3).toNat + va.toNat / 1024)
    rw [hn]
    simp only [toNat_append_add, hv]
    simp
    omega

theorem markEntry_eq (w0 : Word) (p w : Bool) :
    markEntry w0 p w = w0 ||| ((if p then 0o4000 else 0) ||| (if w then 0o10000 else 0)) := by
  unfold markEntry bitWord
  rw [BitVec.or_assoc]
  cases p <;> cases w <;> rfl

theorem inTableRange_eq (mode : PtMode) (va : Word) : inTableRange mode va = true ↔ match mode with
    | .sixteen => 0o174000 ≤ va.toNat
    | .four => 0o177000 ≤ va.toNat := by
  cases mode <;> simp [inTableRange, BitVec.le_def]

/-- Settles O15. -/
theorem referenceTranslation : Obligations.ReferenceTranslation := by
  intro kind tbl a s hp hr number t e w0 page pa fault need mark u
  have he : e = 2 * (entryNumber s.cfg.ptMode (s.tableNumber tbl) (pageOf a)).toNat := by
    have hn : s.tableNumber tbl = number := by cases tbl <;> rfl
    rw [hn]
    exact (two_mul_entryNumber s.cfg.ptMode number a).symm
  have hfault (pm : Bool) : raisePaging 2 kind tbl a pm s = raiseAbort 2 (fault pm) := by
    show raiseAbort 2 { s with pgs := faultPgs s kind tbl a pm } = _
    cases tbl <;> rfl
  have hfault3 : raisePaging 3 kind tbl a false s = raiseAbort 3 (fault false) := by
    show raiseAbort 3 { s with pgs := faultPgs s kind tbl a false } = _
    cases tbl <;> rfl
  have hresolve : resolve kind tbl a s = (translate kind tbl a s).bind (resolveMemory kind) :=
    resolve_translated hp fun ⟨h3, hin⟩ => hr ⟨h3, (inTableRange_eq s.cfg.ptMode a).mp hin⟩
  have hw0 : w0 = s.entryWord0 (entryNumber s.cfg.ptMode (s.tableNumber tbl) (pageOf a)) :=
    congrArg (Memory.word s.ptab) he
  have hmarked (p w : Bool) :
      let marks : Word := (if p then 0o4000 else 0) ||| (if w then 0o10000 else 0)
      s.marked tbl a p w = { s with ptab := Memory.setWord s.ptab e (w0 ||| marks) } := by
    dsimp only
    rw [← markEntry_eq, hw0, he]
    rfl
  refine ⟨fun href => ?_, ?_, fun tbl' r hrules hring hsexi hwords pa v hv => ?_⟩
  · have hverdict : s.verdict kind tbl a = judgeReference w0 (Memory.word s.ptab (e + 1)) kind s.curPcr.ring s.sexi := by
      rw [hw0, he]
      exact judgePage_of_reference href _ _ _ _ _
    have hneed : permitBit kind = need := by cases kind <;> rfl
    rw [judgeReference, hneed] at hverdict
    rw [hresolve]
    by_cases h0 : w0.extractLsb' 13 3 = 0
    · rw [if_pos h0] at hverdict ⊢
      rw [translate_of_pageFault hverdict, Res.bind_stop, hfault3]
    rw [if_neg h0] at hverdict ⊢
    by_cases h1 : w0.getLsbD need = false
    · rw [if_pos h1] at hverdict ⊢
      rw [translate_of_violation hverdict, Res.bind_stop, hfault]
    rw [if_neg h1] at hverdict ⊢
    by_cases h2 : s.curPcr.ring < w0.extractLsb' 9 2
    · rw [if_pos h2] at hverdict ⊢
      rw [translate_of_violation hverdict, Res.bind_stop, hfault]
    rw [if_neg h2] at hverdict ⊢
    rw [translate_of_allowed hverdict, Res.bind_ok, hmarked]
    cases kind <;> rfl
  · cases hv : s.verdict kind tbl a with
    | pageFault =>
      refine .inl ?_
      rw [hresolve, translate_of_pageFault hv, Res.bind_stop, hfault3]
    | violation pm =>
      refine .inr (.inl ⟨pm, ?_⟩)
      rw [hresolve, translate_of_violation hv, Res.bind_stop, hfault]
    | allowed page p w =>
      have ht := translate_of_allowed hv
      refine .inr (.inr ⟨_, _, ht, ?_, (translate_address ht).1, (translate_address ht).2, p, w, hmarked p w⟩)
      rw [hresolve, ht, Res.bind_ok]
  · obtain ⟨page, p, w, hverdict, rfl⟩ := verdict_of_translate hv
    refine ⟨_, translate_of_allowed (p := p) (w := w) ?_⟩
    obtain ⟨h0, h1⟩ := hwords
    rw [← hverdict, State.verdict, State.verdict, h0, h1, hring, hsexi, hw0, he]
    exact judgePage_congr hrules _ _ _ _ _

end Sys2Proof.Machine
end

section
/-! PROOF. Shifts (O31): the loop of one-place steps against the shift at once. -/

namespace Sys2Proof.Machine

/-! ### Rotations, bit by bit -/

theorem getLsbD_rotateLeft_mod {w : Nat} (v : BitVec w) (n : Nat) {i : Nat} (hi : i < w) :
    (v.rotateLeft (n % w)).getLsbD i = v.getLsbD ((i + w - n % w) % w) := by
  have hn : n % w < w := Nat.mod_lt _ (by omega)
  rw [BitVec.getLsbD_rotateLeft, Nat.mod_mod, Bool.cond_decide]
  generalize n % w = r at hn ⊢
  split
  · rw [Nat.mod_eq_of_lt (by omega), show i + w - r = w - r + i by omega]
  · rw [decide_eq_true hi, Bool.true_and, show i + w - r = i - r + w by omega, Nat.add_mod_right,
      Nat.mod_eq_of_lt (by omega)]

theorem getLsbD_rotateRight_mod {w : Nat} (v : BitVec w) (n : Nat) {i : Nat} (hi : i < w) :
    (v.rotateRight (n % w)).getLsbD i = v.getLsbD ((i + n) % w) := by
  have hn : n % w < w := Nat.mod_lt _ (by omega)
  rw [BitVec.getLsbD_rotateRight, Nat.mod_mod, Bool.cond_decide, ← Nat.add_mod_mod]
  generalize n % w = r at hn ⊢
  split
  · rw [Nat.mod_eq_of_lt (by omega), Nat.add_comm]
  · rw [decide_eq_true hi, Bool.true_and, show i + r = i - (w - r) + w by omega, Nat.add_mod_right,
      Nat.mod_eq_of_lt (by omega)]

/-! ### One place at a time -/

section
variable {w : Nat} {type : ShiftType} {left m : Bool} (later : BitVec 32) (v : BitVec w)

/-- One place, from bit 0 up. -/
theorem getLsbD_shiftStep (left enter : Bool) {i : Nat} (hi : i < w) :
    (shiftStep left enter v).getLsbD i = if left then (if i = 0 then enter else v.getLsbD (i - 1))
      else (if i = w - 1 then enter else v.getLsbD (i + 1)) := by
  have last : (BitVec.ofBool enter).getLsbD 0 = enter := by cases enter <;> rfl
  have zero {j : Nat} (hj : 0 < j) : (BitVec.ofBool enter).getLsbD j = false := BitVec.getLsbD_of_ge _ _ hj
  unfold shiftStep
  cases left with
  | true =>
    simp only [if_true, BitVec.getLsbD_or, BitVec.getLsbD_shiftLeft, BitVec.getLsbD_setWidth, hi, decide_true, Bool.true_and]
    by_cases h : i = 0
    · simp [h]
    · rw [zero (by omega), if_neg h, Bool.or_false]
      simp [h]
  | false =>
    simp only [Bool.false_eq_true, if_false, BitVec.getLsbD_or, BitVec.getLsbD_ushiftRight, BitVec.getLsbD_shiftLeft,
      BitVec.getLsbD_setWidth, hi, decide_true, Bool.true_and]
    by_cases h : i = w - 1
    · rw [if_pos h, BitVec.getLsbD_of_ge v (1 + i) (by omega), h, Nat.sub_self, last]
      simp
      omega
    · rw [if_neg h, Nat.add_comm, decide_eq_true (show i < w - 1 by omega)]
      simp

/-- A step of the loop is a shift by one place. -/
theorem shiftStep_eq_shifted (hw : w = 16 ∨ w = 32) :
    shiftStep left (enteringBit type left m later 0 v) v = shifted type left m 1 v := by
  have hpos : 0 < w := by omega
  cases type with
  | lin => cases left <;> rfl
  | zin => cases left <;> simp [shiftStep, enteringBit, shifted]
  | arith =>
    cases left with
    | true => simp [shiftStep, enteringBit, shifted]
    | false =>
      refine BitVec.eq_of_getLsbD_eq fun i hi => ?_
      rw [getLsbD_shiftStep _ _ _ hi]
      simp only [Bool.false_eq_true, if_false, enteringBit, shifted, BitVec.getLsbD_sshiftRight]
      by_cases h : i = w - 1
      · rw [if_pos h, if_neg (by omega), decide_eq_false (by omega)]
        rfl
      · rw [if_neg h, if_pos (by omega), decide_eq_false (by omega), Nat.add_comm]
        rfl
  | rot =>
    refine BitVec.eq_of_getLsbD_eq fun i hi => ?_
    rw [getLsbD_shiftStep _ _ _ hi]
    cases left with
    | true =>
      show (if i = 0 then v.msb else v.getLsbD (i - 1)) = (v.rotateLeft (1 % w)).getLsbD i
      rw [getLsbD_rotateLeft_mod _ _ hi, BitVec.msb_eq_getLsbD_last]
      split <;> congr 1 <;> rcases hw with rfl | rfl <;> omega
    | false =>
      show (if i = w - 1 then v.getLsbD 0 else v.getLsbD (i + 1)) = (v.rotateRight (1 % w)).getLsbD i
      rw [getLsbD_rotateRight_mod _ _ hi]
      split <;> congr 1 <;> rcases hw with rfl | rfl <;> omega

/-- Shifts of one kind add up; a link shift has one place only. -/
theorem shifted_succ (hw : w = 16 ∨ w = 32) (ht : type ≠ .lin) (n : Nat) :
    shifted type left m 1 (shifted type left m n v) = shifted type left m (n + 1) v := by
  cases type with
  | lin => exact absurd rfl ht
  | arith =>
    cases left with
    | true => exact (BitVec.shiftLeft_add v n 1).symm
    | false => exact BitVec.sshiftRight_add.symm
  | zin =>
    cases left with
    | true => exact (BitVec.shiftLeft_add v n 1).symm
    | false => exact (BitVec.shiftRight_add v n 1).symm
  | rot =>
    have hpos : 0 < w := by omega
    refine BitVec.eq_of_getLsbD_eq fun i hi => ?_
    cases left with
    | true =>
      show ((v.rotateLeft (n % w)).rotateLeft (1 % w)).getLsbD i = (v.rotateLeft ((n + 1) % w)).getLsbD i
      rw [getLsbD_rotateLeft_mod _ _ hi, getLsbD_rotateLeft_mod _ _ (Nat.mod_lt _ hpos), getLsbD_rotateLeft_mod _ _ hi]
      congr 1
      rcases hw with rfl | rfl <;> omega
    | false =>
      show ((v.rotateRight (n % w)).rotateRight (1 % w)).getLsbD i = (v.rotateRight ((n + 1) % w)).getLsbD i
      rw [getLsbD_rotateRight_mod _ _ hi, getLsbD_rotateRight_mod _ _ (Nat.mod_lt _ hpos), getLsbD_rotateRight_mod _ _ hi]
      congr 1
      rcases hw with rfl | rfl <;> omega

theorem shifted_zero (ht : type ≠ .lin) : shifted type left m 0 v = v := by
  cases type with
  | lin => exact absurd rfl ht
  | arith => cases left <;> simp [shifted]
  | zin => cases left <;> simp [shifted]
  | rot =>
    refine BitVec.eq_of_getLsbD_eq fun i hi => ?_
    cases left with
    | true =>
      show (v.rotateLeft (0 % w)).getLsbD i = _
      rw [getLsbD_rotateLeft_mod _ _ hi, Nat.zero_mod, Nat.sub_zero, Nat.add_mod_right, Nat.mod_eq_of_lt hi]
    | false =>
      show (v.rotateRight (0 % w)).getLsbD i = _
      rw [getLsbD_rotateRight_mod _ _ hi, Nat.add_zero, Nat.mod_eq_of_lt hi]

/-- The bit that the last place discards. -/
theorem discardedBit_shifted (hw : w = 16 ∨ w = 32) (ht : type ≠ .lin) (n : Nat) :
    discardedBit left (shifted type left m n v) = lastShifted type left (n + 1) v := by
  have hpos : 0 < w := by omega
  have shl : (v <<< n).msb = (decide (n + 1 ≤ w) && v.getLsbD (w - (n + 1))) := by
    rw [BitVec.msb_eq_getLsbD_last, BitVec.getLsbD_shiftLeft]
    by_cases h : n + 1 ≤ w
    · rw [decide_eq_true h, decide_eq_true (show w - 1 < w by omega), decide_eq_false (show ¬(w - 1 < n) by omega),
        show w - 1 - n = w - (n + 1) by omega]
      rfl
    · rw [decide_eq_false h, decide_eq_true (show w - 1 < n by omega)]
      simp
  cases type with
  | lin => exact absurd rfl ht
  | arith =>
    cases left with
    | true => exact shl
    | false =>
      show (v.sshiftRight n).getLsbD 0 = if n + 1 ≤ w then v.getLsbD (n + 1 - 1) else v.msb
      rw [BitVec.getLsbD_sshiftRight, decide_eq_false (show ¬(w ≤ 0) by omega)]
      rfl
  | zin =>
    cases left with
    | true => exact shl
    | false =>
      show (v >>> n).getLsbD 0 = v.getLsbD (n + 1 - 1)
      rw [BitVec.getLsbD_ushiftRight]
      rfl
  | rot =>
    cases left with
    | true =>
      show (v.rotateLeft (n % w)).msb = v.getLsbD ((w - (n + 1) % w) % w)
      rw [BitVec.msb_eq_getLsbD_last, getLsbD_rotateLeft_mod _ _ (by omega)]
      congr 1
      rcases hw with rfl | rfl <;> omega
    | false =>
      show (v.rotateRight (n % w)).getLsbD 0 = v.getLsbD ((n + 1 - 1) % w)
      rw [getLsbD_rotateRight_mod _ _ hpos, Nat.zero_add]
      rfl

theorem enteringBit_of_ne_lin (ht : type ≠ .lin) (i : Nat) :
    enteringBit type left m later i v = enteringBit type left m later 0 v := by
  cases type <;> first | rfl | exact absurd rfl ht

/-- The loop on a value that is already shifted by `n` places. -/
theorem shiftLoop_shifted (hw : w = 16 ∨ w = 32) (ht : type ≠ .lin) (last : Bool) :
    ∀ k i n, shiftLoop type left m later i (k + 1) (shifted type left m n v) last
      = (shifted type left m (n + (k + 1)) v, lastShifted type left (n + (k + 1)) v)
  | k, i, n => by
    rw [shiftLoop, enteringBit_of_ne_lin _ _ ht, shiftStep_eq_shifted _ _ hw, shifted_succ _ hw ht,
      discardedBit_shifted _ hw ht]
    cases k with
    | zero => rfl
    | succ k =>
      rw [shiftLoop_shifted hw ht _ k (i + 1) (n + 1)]
      rw [show n + 1 + (k + 1) = n + (k + 1 + 1) by omega]

/-- What the loop leaves, but for a link shift by more places. -/
theorem shiftLoop_eq (hw : w = 16 ∨ w = 32) {n : Nat} (hn : 0 < n) (h : type ≠ .lin ∨ n = 1) (last : Bool) :
    shiftLoop type left m later 0 n v last = (shifted type left m n v, lastShifted type left n v) := by
  by_cases ht : type = .lin
  · subst ht
    obtain rfl : n = 1 := h.resolve_left (· rfl)
    cases left <;> rfl
  · obtain ⟨k, rfl⟩ := Nat.exists_eq_add_one.mpr hn
    have := shiftLoop_shifted later v hw ht last k 0 0 (m := m) (left := left)
    rwa [shifted_zero v ht, Nat.zero_add] at this

end

/-! ### Nothing written -/

theorem putBit_self {n : Nat} (w : BitVec n) {i : Nat} (hi : i < n) : putBit w i (w.getLsbD i) = w := by
  refine BitVec.eq_of_getLsbD_eq fun j _ => ?_
  rw [getLsbD_putBit _ _ _ _ hi]
  split
  · next h => rw [h]
  · rfl

theorem State.setLevel_self (s : State) (l : Level) : s.setLevel l (s.level l) = s := by
  unfold State.setLevel State.level
  rw [Vector.set_getElem_self]

theorem State.setReg_self (s : State) (c : Reg) : s.setReg c (s.reg c) = s := by
  have h : (s.level s.pil).put c (s.reg c) = s.level s.pil := by cases c <;> rfl
  rw [State.setReg, h, State.setLevel_self]

theorem State.setFlag_self (s : State) (f : Flag) : s.setFlag f (s.flag f) = s := by
  rw [State.setFlag, State.flag, putBit_self _ (by cases f <;> decide)]
  exact s.setLevel_self s.pil

/-! ### The instructions -/

theorem shiftsLeft_eq {count : BitVec 6} (h : 0 < count.toInt.natAbs) : shiftsLeft count = decide (0 < count.toInt) := by
  rw [shiftsLeft, BitVec.msb_eq_toInt, Bool.eq_iff_iff]
  simp
  omega

section
variable {type : ShiftType} {count : BitVec 6} (s : State)

theorem shiftResult_zero {w : Nat} (v : BitVec w) (h : count.toInt.natAbs = 0) :
    shiftResult type count v s = (v, s.flag .m) := by
  rw [shiftResult, shiftPlaces, h, shiftLoop]

theorem shiftResult_eq {w : Nat} (v : BitVec w) (hw : w = 16 ∨ w = 32) (hn : 0 < count.toInt.natAbs)
    (h : type ≠ .lin ∨ count.toInt.natAbs = 1) :
    shiftResult type count v s = (shifted type (decide (0 < count.toInt)) (s.flag .m) count.toInt.natAbs v,
      lastShifted type (decide (0 < count.toInt)) count.toInt.natAbs v) := by
  rw [shiftResult, shiftPlaces, shiftsLeft_eq hn, shiftLoop_eq _ _ hw hn h]

theorem afterShift_zero (h : count.toInt.natAbs = 0) : s.afterShift type count (s.flag .m) = s := by
  unfold State.afterShift
  dsimp only
  rw [State.setFlag_self, if_neg (by rw [shiftPlaces, h]; omega)]

theorem flag_afterShift (m : Bool) : (s.afterShift type count m).flag .m = m := by
  unfold State.afterShift
  dsimp only
  split
  · rw [flag_setFree, State.flag_setFlag_same]
  · rw [State.flag_setFlag_same]

theorem reg_afterShift (m : Bool) (c : Reg) : (s.afterShift type count m).reg c = s.reg c := by
  unfold State.afterShift
  dsimp only
  split
  · rw [reg_setFree, State.reg_setFlag]
  · rw [State.reg_setFlag]

theorem frame_afterShift (rs : List Reg) (m : Bool) : s.Frame rs [.m] [] (s.afterShift type count m) := by
  have h : s.Frame rs [.m] [] (s.setFlag .m m) := (State.Frame.refl _ _ _ s).setFlagIn _ (by simp)
  unfold State.afterShift
  dsimp only
  split
  · exact h.setFree _
  · exact h

/-- A shift of one register. -/
theorem exec_shift {i : Instr} {c : Reg} (hc : c ≠ .p) (hexec : exec i s = .next (shiftRegister c type count s)) :
    let n := count.toInt.natAbs
    let left := decide (0 < count.toInt)
    (n = 0 → exec i s = .next s.advance)
      ∧ (0 < n → ∃ t, exec i s = .next t
        ∧ (type ≠ .lin ∨ n = 1 → t.reg c = shifted type left (s.flag .m) n (s.reg c)
          ∧ t.flag .m = lastShifted type left n (s.reg c))
        ∧ t.reg .p = s.reg .p + 1 ∧ s.Frame [c, .p] [.m] [] t) := by
  refine ⟨fun hn => ?_, fun hn => ⟨_, hexec, fun h => ⟨?_, ?_⟩, ?_,
    ((frame_afterShift s _ _).setRegIn _ (by simp)).advanceIn (by simp)⟩⟩
  · rw [hexec, shiftRegister]
    rw [shiftResult_zero s _ hn, afterShift_zero s hn, State.setReg_self]
  · rw [shiftRegister, State.reg_advance _ hc, State.reg_setReg_same, shiftResult_eq s _ (.inl rfl) hn h]
  · rw [shiftRegister, State.flag_advance, State.flag_setReg, flag_afterShift, shiftResult_eq s _ (.inl rfl) hn h]
  · rw [shiftRegister, State.reg_advance_p, State.reg_setReg_ne _ _ hc.symm, reg_afterShift]

/-- A shift of A and D connected. -/
theorem exec_sad :
    let n := count.toInt.natAbs
    let left := decide (0 < count.toInt)
    (n = 0 → exec (.sad type count) s = .next s.advance)
      ∧ (0 < n → ∃ t, exec (.sad type count) s = .next t
        ∧ (type ≠ .lin ∨ n = 1 → t.reg .a ++ t.reg .d = shifted type left (s.flag .m) n (s.reg .a ++ s.reg .d)
          ∧ t.flag .m = lastShifted type left n (s.reg .a ++ s.reg .d))
        ∧ t.reg .p = s.reg .p + 1 ∧ s.Frame [.a, .d, .p] [.m] [] t) := by
  refine ⟨fun hn => ?_, fun hn => ⟨_, rfl, fun h => ⟨?_, ?_⟩, ?_,
    (((frame_afterShift s _ _).setRegIn _ (by simp)).setRegIn _ (by simp)).advanceIn (by simp)⟩⟩
  · show execSad type count s = _
    rw [execSad]
    have ha : (s.reg .a ++ s.reg .d).extractLsb' 16 16 = s.reg .a := BitVec.extractLsb'_append_eq_left
    have hd : (s.reg .a ++ s.reg .d).extractLsb' 0 16 = s.reg .d := BitVec.extractLsb'_append_eq_right
    rw [shiftResult_zero s _ hn, afterShift_zero s hn, ha, hd, State.setReg_self, State.setReg_self]
  · rw [shiftResult_eq s _ (.inr rfl) hn h]
    simp only [State.reg_advance_eq, State.reg_setReg]
    exact append_halves _
  · rw [State.flag_advance, State.flag_setReg, State.flag_setReg, flag_afterShift, shiftResult_eq s _ (.inr rfl) hn h]
  · simp [State.reg_setReg, reg_afterShift]

end

/-- Settles O31. -/
theorem shifts : Obligations.Shifts := by
  intro type count s
  refine ⟨?_, (exec_sad s).1, (exec_sad s).2⟩
  simp only [List.forall_mem_cons]
  exact ⟨exec_shift s (by decide) rfl, exec_shift s (by decide) rfl, exec_shift s (by decide) rfl, List.forall_mem_nil _⟩

end Sys2Proof.Machine
end

section
/-! PROOF. Stack frames: ENTR, INIT, LEAVE and ELEAV (O45). -/

namespace Sys2Proof.Machine

theorem Res.bind_congr {α β : Type} {r : Res α} {k k' : α → State → Res β} (h : ∀ a u, r = .ok a u → k a u = k' a u) :
    r.bind k = r.bind k' := by
  cases r with
  | ok a u => exact h a u rfl
  | stop o => rfl

theorem Res.bind_assoc {α β γ : Type} (r : Res α) (f : α → State → Res β) (g : β → State → Res γ) :
    (r.bind f).bind g = r.bind fun a u => (f a u).bind g := by
  cases r <;> rfl

/-- An access leaves the word at a target, page bits apart. -/
theorem State.Accessed.wordAt_mask {s t : State} (h : s.Accessed t) (hw : s.memoryWf) (g : Target) :
    t.wordAt g &&& 0o163777 = s.wordAt g &&& 0o163777 := by
  cases g with
  | mem pa => rw [State.wordAt, State.wordAt, h.mem]
  | ptab i => exact (h.bits hw.2).2 i.toNat
  | absent => rfl

theorem State.Accessed.wordAt_mem {s t : State} (h : s.Accessed t) (pa : PhysAddr) :
    t.wordAt (.mem pa) = s.wordAt (.mem pa) := by
  rw [State.wordAt, State.wordAt, h.mem]

/-! ### ENTR and INIT -/

/-- The addresses of LINK, PREVB, STP and SMAX of a frame. -/
def frameWords (b : Word) : List Word := [linkOf b, prevbOf b, stpOf b, smaxOf b]

theorem frameWords_eq (b : Word) : frameWords b = consecutive (linkOf b) 4 := by
  simp only [frameWords, consecutive, linkOf, prevbOf, stpOf, smaxOf, List.range, List.range.loop, List.map_cons,
    List.map_nil, List.cons.injEq, and_true]
  refine ⟨?_, ?_, ?_, ?_⟩ <;> bv_omega

/-- An instruction that goes on to write a frame. -/
theorem exec_enter {i : Instr} {s u w : State} {b stp smax size : Word} {gs : List Target} (hw : s.memoryWf)
    (acc : s.Accessed u)
    (hexec : exec i s = (writeFrame b (u.reg .l) (s.reg .b) stp smax u).andThen fun _ t =>
      .next ((t.setReg .b b).jump (t.pc + size)))
    (hg : mapRes (resolve .write s.dataTable) (frameWords b) u = .ok gs w) :
    ∃ t, exec i s = .next t ∧ (.absent ∉ gs → gs.map t.wordAt = [s.reg .l + 1, s.reg .b, stp, smax]) ∧ t.reg .b = b
      ∧ t.reg .p = s.reg .p + size ∧ s.Frame [.b, .p] [] gs t := by
  obtain ⟨accw, hlen⟩ := mapRes_resolve_accessed hg
  have acc' : s.Accessed w := acc.trans accw
  have wf : w.memoryWf := acc'.memoryWf hw
  let ws := [s.reg .l + 1, s.reg .b, stp, smax]
  refine ⟨((storeList gs ws w).setReg .b b).jump ((storeList gs ws w).pc + size), ?_, fun ha => ?_, ?_, ?_,
    ((((acc'.frameIn hw _ _ _).storeListIn gs ws wf (List.Subset.refl _)).setRegIn _ (by simp)).jumpIn _ (by simp))⟩
  · rw [hexec, acc.reg]
    show ((mapRes (resolve .write u.dataTable) (frameWords b) u).bind _).andThen _ = _
    rw [acc.dataTable, hg]
    rfl
  · rw [show State.wordAt (((storeList gs ws w).setReg .b b).jump _) = (storeList gs ws w).wordAt from
      funext fun g => by rw [wordAt_jump, wordAt_setReg]]
    rw [frameWords_eq] at hg
    exact map_wordAt_storeList (nodup_of_consecutive (by decide) hg ha) ha wf hlen
  · simp [State.reg_jump_eq]
  · rw [State.reg_jump_eq, if_pos rfl, State.pc_eq, reg_storeList, acc'.reg]

theorem enter_ends {i : Instr} {s u : State} {b l prevb stp smax : Word} {k : Unit → State → Out} (acc : s.Accessed u)
    (hexec : exec i s = (writeFrame b l prevb stp smax u).andThen k) :
    (mapRes (resolve .write s.dataTable) (frameWords b) u).Ends i s := by
  intro o ho
  refine ⟨?_, acc.refused ((mapRes_refuses (fun _ _ => resolve_refuses ..) (fun _ _ _ _ e => resolve_accessed e) ..).stop o ho)⟩
  rw [hexec]
  show ((mapRes (resolve .write u.dataTable) (frameWords b) u).bind _).andThen _ = _
  rw [acc.dataTable, ho]
  rfl

/-- Where ENTR is when its words are read. -/
theorem exec_entr_of_reads {s u v w : State} {demand stp smax : Word} (hu : readVirt .pt (s.reg .p + 1) s = .ok demand u)
    (hv : readVirt s.dataTable (stpOf (s.reg .b)) u = .ok stp v) (hw : readVirt s.dataTable (smaxOf (s.reg .b)) v = .ok smax w) :
    s.Accessed w ∧ exec .entr s = if enterOverflow demand (stp + 0o200) smax then .next (w.jump (s.reg .p + 2))
      else (writeFrame (stp + 0o200) (w.reg .l) (s.reg .b) (demand + (stp + 0o200)) smax w).andThen fun _ t =>
        .next ((t.setReg .b (stp + 0o200)).jump (t.pc + 3)) := by
  have accu : s.Accessed u := readVirt_accessed hu
  have accv : s.Accessed v := accu.trans (readVirt_accessed hv)
  have accw : s.Accessed w := accv.trans (readVirt_accessed hw)
  refine ⟨accw, ?_⟩
  show (readVirt .pt (s.reg .p + 1) s).andThen _ = _
  rw [hu, Res.andThen_ok, accu.dataTable, hv, Res.andThen_ok, accv.dataTable, hw, Res.andThen_ok, State.pc_eq, accw.reg]

theorem exec_init_of_reads {s u v w x : State} {demand start size flag : Word}
    (hu : readVirt .pt (s.reg .p + 1) s = .ok demand u) (hv : readVirt .pt (s.reg .p + 2) u = .ok start v)
    (hw : readVirt .pt (s.reg .p + 3) v = .ok size w) (hx : readVirt .pt (s.reg .p + 4) w = .ok flag x) :
    s.Accessed x ∧ exec .init s =
      if initError (s.flag .ptm) flag (demand + (start + 0o200)) (start + size) then .next (x.jump (s.reg .p + 6))
      else (writeFrame (start + 0o200) (x.reg .l) (s.reg .b) (demand + (start + 0o200)) (start + size) x).andThen fun _ t =>
        .next ((t.setReg .b (start + 0o200)).jump (t.pc + 7)) := by
  have accu : s.Accessed u := readVirt_accessed hu
  have accv : s.Accessed v := accu.trans (readVirt_accessed hv)
  have accw : s.Accessed w := accv.trans (readVirt_accessed hw)
  have accx : s.Accessed x := accw.trans (readVirt_accessed hx)
  refine ⟨accx, ?_⟩
  show (readVirt .pt (s.reg .p + 1) s).andThen _ = _
  rw [hu, Res.andThen_ok, State.pc_eq, accu.reg, hv, Res.andThen_ok, State.pc_eq, accv.reg, hw, Res.andThen_ok,
    State.pc_eq, accw.reg, hx, Res.andThen_ok, accx.flag, State.pc_eq]
  simp only [accx.reg]

/-- An error return. -/
theorem jump_of_accessed {s u : State} (hw : s.memoryWf) (acc : s.Accessed u) (a : Word) :
    (u.jump a).reg .p = a ∧ s.Frame [.p] [] [] (u.jump a) :=
  ⟨by simp, (acc.frame hw _ _).jumpIn _ (by simp)⟩

theorem enterOverflow_iff (demand b smax : Word) : enterOverflow demand b smax = true ↔ smax.toNat < demand.toNat + b.toNat :=
  decide_eq_true_iff

theorem initError_iff (ptm : Bool) (flag stp smax : Word) :
    initError ptm flag stp smax = true ↔ flag.getLsbD 0 ≠ ptm ∨ smax.toNat < stp.toNat := by
  rw [initError, Bool.or_eq_true, bne_iff_ne, decide_eq_true_iff, BitVec.lt_def]

/-! ### LEAVE and ELEAV -/

theorem exec_leave_of_reads {s u v : State} {link prevb : Word} (hw : s.memoryWf)
    (hu : readVirt s.dataTable (linkOf (s.reg .b)) s = .ok link u) (hv : readVirt s.dataTable (prevbOf (s.reg .b)) u = .ok prevb v) :
    ∃ t, exec .leave s = .next t ∧ t.reg .b = prevb ∧ t.reg .p = link ∧ s.Frame [.b, .p] [] [] t := by
  have accu : s.Accessed u := readVirt_accessed hu
  have accv : s.Accessed v := accu.trans (readVirt_accessed hv)
  refine ⟨(v.setReg .b prevb).jump link, ?_, by simp [State.reg_jump_eq], by simp,
    ((accv.frame hw _ _).setRegIn _ (by simp)).jumpIn _ (by simp)⟩
  show (readVirt s.dataTable (linkOf (s.reg .b)) s).andThen _ = _
  rw [hu, Res.andThen_ok, accu.dataTable, accu.reg, hv, Res.andThen_ok]

/-- The accesses of ELEAV, with the addresses and the words of the state before. -/
theorem leaveWithError_eq (pass : Pass) (s : State) : leaveWithError pass s =
    (readVirt s.dataTable (linkOf (s.reg .b)) s).bind fun link u =>
      (resolve .write s.dataTable (linkOf (s.reg .b)) u).bind fun g v =>
        (readVirt s.dataTable (prevbOf (s.reg .b)) (storeIn pass g (link - 1) v)).bind fun prevb w =>
          (resolve .write s.dataTable (errcodeOf prevb) w).bind fun h x =>
            .ok (prevb, link - 1) (storeIn pass h (s.reg .a) x) := by
  have stored {v : State} (acc : s.Accessed v) (g : Target) (a : Word) (c : Reg) : (storeIn pass g a v).reg c = s.reg c := by
    rw [← acc.reg c]
    cases pass <;> simp
  have table {v : State} (acc : s.Accessed v) (g : Target) (a : Word) : (storeIn pass g a v).dataTable = s.dataTable := by
    rw [← acc.dataTable]
    cases pass with
    | check => rfl
    | perform => simp [State.dataTable_eq]
  refine Res.bind_congr fun link u hu => ?_
  have accu : s.Accessed u := readVirt_accessed hu
  rw [accu.dataTable, accu.reg, writeVirtIn, Res.bind_assoc]
  refine Res.bind_congr fun g v hv => ?_
  have accv : s.Accessed v := accu.trans (resolve_accessed hv)
  rw [Res.bind_ok, table accv, stored accv]
  refine Res.bind_congr fun prevb w hw => ?_
  have accw := readVirt_accessed hw
  rw [accw.dataTable, table accv, accw.reg, stored accv, writeVirtIn, Res.bind_assoc]
  rfl

theorem leaveWithError_reg {pass : Pass} {s t : State} {r : Word × Word} (h : leaveWithError pass s = .ok r t) (c : Reg) :
    t.reg c = s.reg c := by
  have stored (v : State) (g : Target) (a : Word) : (storeIn pass g a v).reg c = v.reg c := by
    cases pass with
    | check => rfl
    | perform => exact reg_store g a v c
  rw [leaveWithError_eq] at h
  obtain ⟨link, u, hu, h⟩ := Res.bind_eq_ok h
  obtain ⟨g, v, hv, h⟩ := Res.bind_eq_ok h
  obtain ⟨prevb, w, hw, h⟩ := Res.bind_eq_ok h
  obtain ⟨e, x, hx, h⟩ := Res.bind_eq_ok h
  cases h
  rw [stored, (resolve_accessed hx).reg, (readVirt_accessed hw).reg, stored, (resolve_accessed hv).reg,
    (readVirt_accessed hu).reg]

/-- The accesses that ELEAV checks. -/
def leaveChecks (s : State) : Res Target :=
  (readVirt s.dataTable (linkOf (s.reg .b)) s).bind fun _ u => (resolve .write s.dataTable (linkOf (s.reg .b)) u).bind
    fun _ v => (readVirt s.dataTable (prevbOf (s.reg .b)) v).bind fun prevb w =>
      resolve .write s.dataTable (errcodeOf prevb) w

theorem leaveChecks_refuses (s : State) : (leaveChecks s).Refuses s :=
  Res.refuses_bind (readVirt_refuses ..) (fun _ _ e => readVirt_accessed e) fun _ _ =>
    Res.refuses_bind (resolve_refuses ..) (fun _ _ e => resolve_accessed e) fun _ _ =>
      Res.refuses_bind (readVirt_refuses ..) (fun _ _ e => readVirt_accessed e) fun _ _ => resolve_refuses ..

theorem leaveWithError_check_of_stop {s : State} {o : Out} (h : leaveChecks s = .stop o) :
    leaveWithError .check s = .stop o := by
  rw [leaveWithError_eq]
  exact Res.bind_stop_of (fun _ _ => Res.bind_stop_of fun _ _ => Res.bind_stop_of fun _ _ => Res.bind_of_stop) h

theorem leaveWithError_check_accessed {s t : State} {v : Word × Word} (h : leaveWithError .check s = .ok v t) :
    s.Accessed t := by
  rw [leaveWithError_eq] at h
  obtain ⟨link, u, hu, h⟩ := Res.bind_eq_ok h
  obtain ⟨g, v, hv, h⟩ := Res.bind_eq_ok h
  obtain ⟨prevb, w, hw, h⟩ := Res.bind_eq_ok h
  obtain ⟨e, x, hx, h⟩ := Res.bind_eq_ok h
  cases h
  exact ((readVirt_accessed hu).trans (resolve_accessed hv)).trans ((readVirt_accessed hw).trans (resolve_accessed hx))

theorem leaveWithError_check_refuses (s : State) : (leaveWithError .check s).Refuses s := by
  rw [leaveWithError_eq]
  exact Res.refuses_bind (readVirt_refuses ..) (fun _ _ e => readVirt_accessed e) fun _ _ =>
    Res.refuses_bind (resolve_refuses ..) (fun _ _ e => resolve_accessed e) fun _ _ =>
      Res.refuses_bind (readVirt_refuses ..) (fun _ _ e => readVirt_accessed e) fun _ _ =>
        Res.refuses_bind (resolve_refuses ..) (fun _ _ e => resolve_accessed e) fun _ _ => Res.refuses_ok _ _ _

theorem leaveWithError_raises (pass : Pass) (s : State) : (leaveWithError pass s).Raises s :=
  Res.raises_bind (readVirt_raises ..) fun _ _ => Res.raises_bind (writeVirtIn_raises ..) fun _ _ =>
    Res.raises_bind (readVirt_raises ..) fun _ _ => Res.raises_bind (writeVirtIn_raises ..) fun _ _ => Res.raises_ok _ rfl

theorem eleav_refuses (s : State) : (inOrder leaveWithError s).Refuses s :=
  inOrder_refuses (leaveWithError_check_refuses s) (fun _ _ => leaveWithError_check_accessed) (leaveWithError_raises ..)

/-- What ELEAV leaves, when its accesses go on. -/
theorem exec_eleav_of_accesses {s u v w x : State} {link prevb : Word} {g h : Target} (hw : s.memoryWf)
    (hu : readVirt s.dataTable (linkOf (s.reg .b)) s = .ok link u)
    (hg : resolve .write s.dataTable (linkOf (s.reg .b)) u = .ok g v)
    (hc : ∃ k y, ((readVirt s.dataTable (prevbOf (s.reg .b)) v).bind fun p w =>
      resolve .write s.dataTable (errcodeOf p) w) = .ok k y)
    (hp : readVirt s.dataTable (prevbOf (s.reg .b)) (store g (link - 1) v) = .ok prevb w)
    (hh : resolve .write s.dataTable (errcodeOf prevb) w = .ok h x) :
    ∃ t, exec .eleav s = .next t ∧ t.reg .b = prevb ∧ t.reg .p = link - 1 ∧ (h ≠ .absent → t.wordAt h = s.reg .a)
      ∧ (g ≠ .absent → g ≠ h → t.wordAt g &&& 0o163777 = (link - 1) &&& 0o163777)
      ∧ ((∃ pa, g = .mem pa) → g ≠ h → t.wordAt g = link - 1) ∧ s.Frame [.b, .p] [] [g, h] t := by
  have accv : s.Accessed v := (readVirt_accessed hu).trans (resolve_accessed hg)
  have wfv : v.memoryWf := accv.memoryWf hw
  have wfg : (store g (link - 1) v).memoryWf := store_memoryWf wfv
  have accx : (store g (link - 1) v).Accessed x := (readVirt_accessed hp).trans (resolve_accessed hh)
  have wfx : x.memoryWf := accx.memoryWf wfg
  obtain ⟨k, y, hc⟩ := hc
  obtain ⟨p, z, hz, hc⟩ := Res.bind_eq_ok hc
  have hcheck : leaveWithError .check s = .ok (p, link - 1) y := by
    rw [leaveWithError_eq, hu, Res.bind_ok, hg, Res.bind_ok, storeIn_check, hz, Res.bind_ok, hc]
    rfl
  have hperform : leaveWithError .perform s = .ok (prevb, link - 1) (store h (s.reg .a) x) := by
    rw [leaveWithError_eq, hu, Res.bind_ok, hg, Res.bind_ok, storeIn_perform, hp, Res.bind_ok, hh]
    rfl
  have word (k : Target) :
      (((store h (s.reg .a) x).setReg .b prevb).jump (link - 1)).wordAt k = (store h (s.reg .a) x).wordAt k := by
    rw [wordAt_jump, wordAt_setReg]
  refine ⟨((store h (s.reg .a) x).setReg .b prevb).jump (link - 1), ?_, by simp [State.reg_jump_eq], by simp,
    fun hne => ?_, fun hne hgh => ?_, fun hmem hgh => ?_, ?_⟩
  · show (inOrder leaveWithError s).andThen _ = _
    rw [inOrder_of_ok hcheck hperform]
    rfl
  · rw [word, wordAt_store _ wfx hne]
  · rw [word, wordAt_store_ne _ wfx hgh, accx.wordAt_mask wfg, wordAt_store _ wfv hne]
  · obtain ⟨pa, rfl⟩ := hmem
    rw [word, wordAt_store_ne _ wfx hgh, accx.wordAt_mem, wordAt_store _ wfv (by simp)]
  · exact (((((accv.frameIn hw _ _ _).storeIn wfv _ (by simp)).accessed wfg accx).storeIn wfx _ (by simp)).setRegIn _
      (by simp)).jumpIn _ (by simp)

/-- ELEAV goes to its end, or leaves every register and word. -/
theorem exec_eleav_cases (s : State) :
    (∃ t, exec .eleav s = .next t ∧ t.pil = s.pil ∧ t.reg .a = s.reg .a) ∨ s.Refused (exec .eleav s) := by
  have hexec : exec .eleav s = (inOrder leaveWithError s).andThen fun v s => .next ((s.setReg .b v.1).jump v.2) := rfl
  cases h : inOrder leaveWithError s with
  | stop o =>
    rw [hexec, h]
    exact .inr ((eleav_refuses s).stop o h)
  | ok v t =>
    refine .inl ⟨(t.setReg .b v.1).jump v.2, by rw [hexec, h]; rfl, ?_, ?_⟩
    · have hwriting := (leaveWithError_raises .perform s).ok v t (inOrder_ok h).2
      unfold State.Writing at hwriting
      rw [← hwriting]
      rfl
    · simp [State.reg_jump_eq, State.reg_setReg, leaveWithError_reg (inOrder_ok h).2]

/-! ### Refused reads -/

/-- A part that goes on with the first of some accesses, and stops with the others. -/
theorem Res.andThen_of_bind_stop {α β : Type} {r : Res α} {f : α → State → Res β} {k : α → State → Out} {o : Out}
    (h : r.bind f = .stop o) (hk : ∀ a u, r = .ok a u → f a u = .stop o → k a u = o) : r.andThen k = o := by
  cases r with
  | ok a u => exact hk a u rfl h
  | stop p => cases h; rfl

theorem Res.andThen_of_stop {α : Type} {r : Res α} {k : α → State → Out} {o : Out} (h : r = .stop o) : r.andThen k = o := by
  rw [h, Res.andThen_stop]

theorem entrReads_refuses (s : State) : ((readVirt .pt (s.reg .p + 1) s).bind fun _ u =>
    (readVirt s.dataTable (stpOf (s.reg .b)) u).bind fun _ v => readVirt s.dataTable (smaxOf (s.reg .b)) v).Refuses s :=
  Res.refuses_bind (readVirt_refuses ..) (fun _ _ e => readVirt_accessed e) fun _ _ =>
    Res.refuses_bind (readVirt_refuses ..) (fun _ _ e => readVirt_accessed e) fun _ _ => readVirt_refuses ..

theorem exec_entr_of_stop {s : State} {o : Out} (h : ((readVirt .pt (s.reg .p + 1) s).bind fun _ u =>
    (readVirt s.dataTable (stpOf (s.reg .b)) u).bind fun _ v => readVirt s.dataTable (smaxOf (s.reg .b)) v) = .stop o) :
    exec .entr s = o := by
  refine Res.andThen_of_bind_stop h fun demand u hu h => ?_
  rw [(readVirt_accessed hu).dataTable]
  refine Res.andThen_of_bind_stop h fun stp v hv h => ?_
  rw [((readVirt_accessed hu).trans (readVirt_accessed hv)).dataTable]
  exact Res.andThen_of_stop h

theorem initReads_refuses (s : State) : ((readVirt .pt (s.reg .p + 1) s).bind fun _ u =>
    (readVirt .pt (s.reg .p + 2) u).bind fun _ v => (readVirt .pt (s.reg .p + 3) v).bind fun _ w =>
      readVirt .pt (s.reg .p + 4) w).Refuses s :=
  Res.refuses_bind (readVirt_refuses ..) (fun _ _ e => readVirt_accessed e) fun _ _ =>
    Res.refuses_bind (readVirt_refuses ..) (fun _ _ e => readVirt_accessed e) fun _ _ =>
      Res.refuses_bind (readVirt_refuses ..) (fun _ _ e => readVirt_accessed e) fun _ _ => readVirt_refuses ..

theorem exec_init_of_stop {s : State} {o : Out} (h : ((readVirt .pt (s.reg .p + 1) s).bind fun _ u =>
    (readVirt .pt (s.reg .p + 2) u).bind fun _ v => (readVirt .pt (s.reg .p + 3) v).bind fun _ w =>
      readVirt .pt (s.reg .p + 4) w) = .stop o) : exec .init s = o := by
  refine Res.andThen_of_bind_stop h fun demand u hu h => ?_
  have accu : s.Accessed u := readVirt_accessed hu
  rw [State.pc_eq, accu.reg]
  refine Res.andThen_of_bind_stop h fun start v hv h => ?_
  have accv : s.Accessed v := accu.trans (readVirt_accessed hv)
  rw [State.pc_eq, accv.reg]
  refine Res.andThen_of_bind_stop h fun size w hw h => ?_
  rw [State.pc_eq, (accv.trans (readVirt_accessed hw)).reg]
  exact Res.andThen_of_stop h

theorem leaveReads_refuses (s : State) : ((readVirt s.dataTable (linkOf (s.reg .b)) s).bind fun _ u =>
    readVirt s.dataTable (prevbOf (s.reg .b)) u).Refuses s :=
  Res.refuses_bind (readVirt_refuses ..) (fun _ _ e => readVirt_accessed e) fun _ _ => readVirt_refuses ..

theorem exec_leave_of_stop {s : State} {o : Out} (h : ((readVirt s.dataTable (linkOf (s.reg .b)) s).bind fun _ u =>
    readVirt s.dataTable (prevbOf (s.reg .b)) u) = .stop o) : exec .leave s = o := by
  refine Res.andThen_of_bind_stop h fun link u hu h => ?_
  rw [(readVirt_accessed hu).dataTable, (readVirt_accessed hu).reg]
  exact Res.andThen_of_stop h

/-- Settles O45. -/
theorem stackFrames : Obligations.StackFrames := by
  refine ⟨fun s hw => ?_, fun s hw => ⟨fun link prevb u v => exec_leave_of_reads hw,
    fun link prevb g h u v w x => exec_eleav_of_accesses hw, exec_eleav_cases s⟩, fun s => ⟨?_, ?_, ?_, ?_⟩⟩
  · intro frame entered refused
    refine ⟨fun demand stp smax u v w hu hv hx => ?_, fun demand start size flag u v w x hu hv hw' hx => ?_⟩
    · obtain ⟨acc, hexec⟩ := exec_entr_of_reads hu hv hx
      refine ⟨fun hover => ?_, fun hfits => ?_⟩
      · rw [if_pos ((enterOverflow_iff ..).mpr hover)] at hexec
        exact ⟨_, hexec, jump_of_accessed hw acc _⟩
      · rw [if_neg (by rw [enterOverflow_iff]; omega)] at hexec
        exact ⟨fun gs w => exec_enter hw acc hexec, enter_ends acc hexec⟩
    · obtain ⟨acc, hexec⟩ := exec_init_of_reads hu hv hw' hx
      refine ⟨fun herr => ?_, fun hflag hfits => ?_⟩
      · rw [if_pos ((initError_iff ..).mpr herr)] at hexec
        exact ⟨_, hexec, jump_of_accessed hw acc _⟩
      · rw [if_neg (by rw [initError_iff, not_or, not_not]; exact ⟨hflag, by omega⟩)] at hexec
        exact ⟨fun gs w => exec_enter hw acc hexec, enter_ends acc hexec⟩
  · exact fun o ho => ⟨exec_entr_of_stop ho, (entrReads_refuses s).stop o ho⟩
  · exact fun o ho => ⟨exec_init_of_stop ho, (initReads_refuses s).stop o ho⟩
  · exact fun o ho => ⟨exec_leave_of_stop ho, (leaveReads_refuses s).stop o ho⟩
  · exact Res.ends_of_andThen (leaveChecks_refuses s) rfl fun _ h => inOrder_of_stop (leaveWithError_check_of_stop h)

end Sys2Proof.Machine
end

section
/-! PROOF. Memory with paging off: one rule per access and store; page lists (O59). -/

namespace Sys2Proof.Machine

/-! ### Targets -/

theorem physAddr_bankOf_offsetOf (p : PhysAddr) : physAddr (bankOf p) (offsetOf p) = p :=
  (BitVec.extractLsb'_append_extractLsb'_eq_extractLsb' (start₁ := 0) (len₁ := 16) rfl).trans BitVec.extractLsb'_eq_self

theorem physAddr_inj {b : Byte} {x y : Word} : physAddr b x = physAddr b y ↔ x = y :=
  ⟨fun h => by rw [← offsetOf_physAddr b x, h, offsetOf_physAddr], fun h => h ▸ rfl⟩

/-- Within the page-table range the low bits tell the address. -/
theorem tableIndex_inj {mode : PtMode} {a b : Word} (ha : inTableRange mode a = true) (hb : inTableRange mode b = true)
    (h : tableIndex a = tableIndex b) : a = b := by
  rw [inTableRange_eq] at ha hb
  have h' := congrArg BitVec.toNat h
  have := a.isLt
  have := b.isLt
  simp only [tableIndex, BitVec.extractLsb'_toNat, Nat.shiftRight_zero] at h'
  refine BitVec.eq_of_toNat_eq ?_
  cases mode <;> simp only at ha hb <;> omega

/-- Different physical addresses have different targets. -/
theorem physTarget_inj (s : State) {p q : PhysAddr} : s.physTarget p = s.physTarget q ↔ p = q := by
  refine ⟨fun h => ?_, fun h => h ▸ rfl⟩
  unfold State.physTarget at h
  split at h
  · next hp =>
    split at h
    · next hq =>
      rw [Bool.and_eq_true, decide_eq_true_iff] at hp hq
      have hoff := tableIndex_inj hp.2 hq.2 (Target.ptab.inj h)
      rw [← physAddr_bankOf_offsetOf p, ← physAddr_bankOf_offsetOf q, hp.1, hq.1, hoff]
    · cases h
  · split at h
    · cases h
    · exact Target.mem.inj h

theorem wordTarget_inj (s : State) {a b : Word} : s.wordTarget a = s.wordTarget b ↔ a = b := by
  rw [State.wordTarget, State.wordTarget, physTarget_inj, physAddr_inj]

theorem wordTarget_store (s : State) (g : Target) (v a : Word) : (store g v s).wordTarget a = s.wordTarget a :=
  physTarget_store ..

theorem wordTarget_ne_absent (s : State) (a : Word) : s.wordTarget a ≠ .absent :=
  physTarget_ne_absent s _

@[simp] theorem absent_eq_physTarget (s : State) (pa : PhysAddr) : (Target.absent = s.physTarget pa) ↔ False :=
  iff_false_intro (Ne.symm (physTarget_ne_absent s pa))

/-! ### Words after a store -/

theorem physWord_store {s : State} (hw : s.memoryWf) (p q : PhysAddr) (v : Word) :
    (store (s.physTarget p) v s).physWord q = if q = p then v else s.physWord q := by
  rw [State.physWord, physTarget_store]
  split
  · next h => rw [h, wordAt_store v hw (physTarget_ne_absent s p)]
  · next h => rw [wordAt_store_ne v hw (fun e => h ((physTarget_inj s).mp e)), State.physWord]

theorem word_store {s : State} (hw : s.memoryWf) (a b v : Word) :
    (store (s.wordTarget a) v s).word b = if b = a then v else s.word b := by
  rw [State.word, State.wordTarget, physWord_store hw, ← State.word]
  exact if_congr physAddr_inj rfl rfl

/-! ### Accesses of a pass -/

theorem plain_storeIn {s : State} (h : s.plain) (pass : Pass) (g : Target) (v : Word) : (storeIn pass g v s).plain := by
  cases pass with
  | check => exact h
  | perform => exact plain_store h g v

theorem writeVirtIn_plain {s : State} (h : s.plain) (pass : Pass) (tbl : Table) (va v : Word) :
    writeVirtIn pass tbl va v s = .ok () (storeIn pass (s.wordTarget va) v s) := by
  rw [writeVirtIn, resolve_plain h, Res.bind_ok]

theorem writePhysIn_plain {s : State} (h : s.plain) (pass : Pass) (pa : PhysAddr) (v : Word) :
    writePhysIn pass pa v s = .ok () (storeIn pass (s.physTarget pa) v s) := by
  rw [writePhysIn, resolvePhys_plain h, Res.bind_ok]

theorem modifyIn_plain {s : State} (h : s.plain) (pass : Pass) (tbl : Table) (a : Word) (f : Word → Word) :
    modifyIn pass tbl a f s = .ok (s.word a) (storeIn pass (s.wordTarget a) (f (s.word a)) s) := by
  rw [modifyIn, resolve_plain h, Res.bind_ok, resolve_plain h, Res.bind_ok, load,
    peek_of_ne_absent (wordTarget_ne_absent s a), Res.bind_ok]
  rfl

theorem userMode_plain {s : State} (h : s.plain) : s.userMode = false := by
  rw [State.userMode, h.1, Bool.false_and]

/-! ### Page lists -/

/-- Outside user mode an instruction that ends in a list of stores. -/
theorem exec_storeList {i : Instr} {s : State} {gs ts : List Target} {vs : List Word} (hw : s.memoryWf)
    (hexec : exec i s = .next (storeList gs vs s).advance) (hsub : gs ⊆ ts) :
    ∃ t, exec i s = .next t ∧ t.reg .p = s.reg .p + 1 ∧ s.Frame [.p] [] ts t ∧ t.wordAt = (storeList gs vs s).wordAt :=
  ⟨_, hexec, by simp, (((State.Frame.refl _ _ ts s).storeListIn gs vs hw hsub).advanceIn (by simp)),
    funext fun _ => State.wordAt_advance ..⟩

/-- Where a list of stores is the whole of an instruction, different targets hold the words. -/
theorem map_wordAt_of_nodup {s t : State} {gs : List Target} {vs : List Word} (hw : s.memoryWf)
    (ht : t.wordAt = (storeList gs vs s).wordAt) (hn : gs.Nodup) (ha : .absent ∉ gs) (hl : gs.length = vs.length) :
    gs.map t.wordAt = vs := by
  rw [ht]
  exact map_wordAt_storeList hn ha hw hl

theorem predecessorLink_eq (r : Word) (s : State) : s.physTarget (predecessorLink r s) =
    if r &&& 3 = 0 then s.physTarget (physAddr s.cmbnk r) else s.physTarget (physAddr s.stbnk (r * 2 + s.stsrt + 7)) := by
  rw [predecessorLink, apply_ite s.physTarget]

section
variable {s : State} (h : s.plain)
include h

theorem exec_inspl_empty (h0 : s.physWord (physAddr s.stbnk (s.reg .b + 7)) = 0) :
    exec .inspl s = .next (storeList
      [s.physTarget (physAddr s.stbnk (s.reg .b + 7)), s.physTarget (physAddr s.cmbnk (s.reg .x)),
        s.physTarget (physAddr s.cmbnk (s.reg .x + 1)), s.physTarget (physAddr s.cmbnk (s.reg .x + 3))]
      [s.reg .x, 0, ((s.reg .b - s.stsrt) >>> 1) + 3, s.reg .t] s).advance := by
  show privileged s (insertPage s) = _
  rw [privileged_of_not_user _ (userMode_plain h), insertPage]
  simp only [readPhys_plain h, Res.andThen_ok, resolvePhys_plain h, oldBackLink, h0, if_true, takeBackLink, reg_store,
    store_stsrt]
  rfl

theorem exec_inspl_old {old : Word} (h0 : s.physWord (physAddr s.stbnk (s.reg .b + 7)) = old) (hold : old ≠ 0) :
    let heads := [s.physTarget (physAddr s.stbnk (s.reg .b + 7)), s.physTarget (physAddr s.cmbnk (s.reg .x))]
    let back := s.physTarget (physAddr s.cmbnk (old + 1))
    exec .inspl s = .next (storeList
      (heads ++ [back, s.physTarget (physAddr s.cmbnk (s.reg .x + 1)), s.physTarget (physAddr s.cmbnk (s.reg .x + 3))])
      ([s.reg .x, old] ++ [s.reg .x, (storeList heads [s.reg .x, old] s).wordAt back, s.reg .t]) s).advance := by
  show privileged s (insertPage s) = _
  rw [privileged_of_not_user _ (userMode_plain h), insertPage]
  simp only [readPhys_plain h, Res.andThen_ok, resolvePhys_plain h, oldBackLink, h0, if_neg hold, takeBackLink, Res.bind_ok,
    load, peek_of_ne_absent (physTarget_ne_absent s _), reg_store]
  rfl

/-- The stores of REMPL. -/
theorem exec_rempl_eq :
    let next := s.physWord (physAddr s.cmbnk (s.reg .x))
    let back := s.physWord (physAddr s.cmbnk (s.reg .x + 1))
    exec .rempl s = .next (storeList
      ((if back &&& 3 = 0 then s.physTarget (physAddr s.cmbnk back)
          else s.physTarget (physAddr s.stbnk (back * 2 + s.stsrt + 7))) :: ((if next = 0 then [] else [s.physTarget (physAddr s.cmbnk (next + 1))])
        ++ [s.physTarget (physAddr s.cmbnk (s.reg .x)), s.physTarget (physAddr s.cmbnk (s.reg .x + 1))]))
      (next :: ((if next = 0 then [] else [back]) ++ [0, 0])) s).advance := by
  dsimp only
  show privileged s (removePage s) = _
  rw [privileged_of_not_user _ (userMode_plain h), removePage, ← predecessorLink_eq]
  by_cases h0 : s.physWord (physAddr s.cmbnk (s.reg .x)) = 0
  · simp only [readPhys_plain h, Res.andThen_ok, resolvePhys_plain h, successorLink, h0, if_true]
    rfl
  · simp only [readPhys_plain h, Res.andThen_ok, resolvePhys_plain h, successorLink, if_neg h0, Res.bind_ok]
    rfl

end

/-- Settles O59. -/
theorem pageLists : Obligations.PageLists := by
  intro s hw h x cm sg
  refine ⟨?_, ?_⟩
  · intro head old targets
    by_cases h0 : old = 0
    · have htargets : targets = [head, cm x, cm (x + 1), cm (x + 3)] ++ [] := congrArg (_ ++ ·) (if_pos h0)
      obtain ⟨t, he, hp, hf, ht⟩ := exec_storeList (ts := targets) hw (exec_inspl_empty h h0) (List.subset_append_left _ _)
      refine ⟨t, he, hp, hf, fun hn => ?_⟩
      rw [htargets, List.append_nil] at hn
      have hwords := map_wordAt_of_nodup hw ht hn (by simp) rfl
      simp only [List.map_cons, List.map_nil, List.cons.injEq, and_true] at hwords
      obtain ⟨h1, h2, h3, h4⟩ := hwords
      exact ⟨h1, h2.trans h0.symm, h4, by rw [if_pos h0]; exact h3, fun hne => absurd h0 hne⟩
    · have htargets : targets = [head, cm x, cm (x + 1), cm (x + 3)] ++ [cm (old + 1)] := congrArg (_ ++ ·) (if_neg h0)
      have hperm : targets.Perm ([head, cm x] ++ [cm (old + 1), cm (x + 1), cm (x + 3)]) := by
        rw [htargets]
        exact (List.perm_append_comm (l₁ := [cm (x + 1), cm (x + 3)])).append_left [head, cm x]
      obtain ⟨t, he, hp, hf, ht⟩ := exec_storeList (ts := targets) hw (exec_inspl_old h rfl h0) hperm.symm.subset
      refine ⟨t, he, hp, hf, fun hn => ?_⟩
      replace hn := hperm.nodup_iff.mp hn
      have hwords := map_wordAt_of_nodup hw ht hn (by simp) rfl
      have hback : cm (old + 1) ∉ [head, cm x] := fun hm => (List.nodup_append.mp hn).2.2 _ hm _ List.mem_cons_self rfl
      simp only [List.cons_append, List.nil_append, List.map_cons, List.map_nil, List.cons.injEq, and_true] at hwords
      obtain ⟨h1, h2, h3, h4, h5⟩ := hwords
      exact ⟨h1, h2, h5, by rw [if_neg h0]; exact h4.trans (wordAt_storeList_of_notMem _ _ hw hback), fun _ => h3⟩
  · intro next back prev targets
    have hperm : targets.Perm (prev :: ((if next = 0 then [] else [cm (next + 1)]) ++ [cm x, cm (x + 1)])) :=
      (List.perm_append_comm (l₁ := [cm x, cm (x + 1)])).cons prev
    obtain ⟨t, he, hp, hf, ht⟩ := exec_storeList (ts := targets) hw (exec_rempl_eq h) hperm.symm.subset
    refine ⟨t, he, hp, hf, fun hn => ?_⟩
    replace hn := hperm.nodup_iff.mp hn
    have hstores : t.wordAt = (storeList (prev :: ((if next = 0 then [] else [cm (next + 1)]) ++ [cm x, cm (x + 1)]))
      (next :: ((if next = 0 then [] else [back]) ++ [0, 0])) s).wordAt := ht
    have hprev : Target.absent = prev ↔ False :=
      (iff_of_eq (congrArg (Target.absent = ·) (predecessorLink_eq back s))).symm.trans (absent_eq_physTarget s _)
    by_cases h0 : next = 0
    · rw [if_pos h0, List.nil_append] at hn hstores
      rw [if_pos h0, List.nil_append] at hstores
      have hwords := map_wordAt_of_nodup hw hstores hn (by simp [hprev, cm]) rfl
      simp only [List.map_cons, List.map_nil, List.cons.injEq, and_true] at hwords
      obtain ⟨h1, h2, h3⟩ := hwords
      exact ⟨h1, h2, h3, fun hne => absurd h0 hne⟩
    · rw [if_neg h0] at hn hstores
      rw [if_neg h0] at hstores
      have hwords := map_wordAt_of_nodup hw hstores hn (by simp [hprev, cm]) rfl
      simp only [List.cons_append, List.nil_append, List.map_cons, List.map_nil, List.cons.injEq, and_true] at hwords
      obtain ⟨h1, h2, h3, h4⟩ := hwords
      exact ⟨h1, h3, h4, fun _ => h2⟩

end Sys2Proof.Machine
end

section
/-! PROOF. The elements of the SINTRAN III list instructions with paging off, as one store of words and registers each. -/

namespace Sys2Proof.Machine

/-! ### Updates that do not touch memory -/

@[simp] theorem physWord_setReg (s : State) (c : Reg) (v : Word) (pa : PhysAddr) :
    (s.setReg c v).physWord pa = s.physWord pa := wordAt_setReg ..

@[simp] theorem physWord_advance (s : State) (pa : PhysAddr) : s.advance.physWord pa = s.physWord pa := wordAt_setReg ..

@[simp] theorem word_setReg (s : State) (c : Reg) (v a : Word) : (s.setReg c v).word a = s.word a := wordAt_setReg ..

@[simp] theorem word_advance (s : State) (a : Word) : s.advance.word a = s.word a := wordAt_setReg ..

theorem plain_storeList {s : State} (h : s.plain) : ∀ (gs : List Target) (vs : List Word), (storeList gs vs s).plain := by
  intro gs vs
  induction gs generalizing vs s with
  | nil => exact h
  | cons g gs ih =>
    cases vs with
    | nil => exact h
    | cons v vs => exact ih (plain_store h g v) vs

theorem storeList_special (gs : List Target) (vs : List Word) (s : State) :
    { storeList gs vs s with mem := s.mem, ptab := s.ptab } = s := by
  induction gs generalizing vs s with
  | nil => rfl
  | cons g gs ih =>
    cases vs with
    | nil => rfl
    | cons v vs =>
      have h := ih vs (store g v s)
      rw [storeList_cons]
      cases g <;> exact (congrArg (fun t : State => { t with mem := s.mem, ptab := s.ptab }) h)

theorem storeList_eq (gs : List Target) (vs : List Word) (s : State) :
    ∃ m p, storeList gs vs s = { s with mem := m, ptab := p } :=
  ⟨(storeList gs vs s).mem, (storeList gs vs s).ptab,
    (congrArg (fun t : State => { t with mem := (storeList gs vs s).mem, ptab := (storeList gs vs s).ptab })
      (storeList_special gs vs s))⟩

theorem storeList_append {gs gs' : List Target} {vs vs' : List Word} (hl : gs.length = vs.length) (s : State) :
    storeList (gs ++ gs') (vs ++ vs') s = storeList gs' vs' (storeList gs vs s) := by
  induction gs generalizing vs s with
  | nil => rw [List.length_eq_zero_iff.mp hl.symm]; rfl
  | cons g gs ih =>
    obtain ⟨v, vs, rfl⟩ := List.exists_cons_of_length_eq_add_one hl.symm
    exact ih (Nat.succ.inj hl) _

/-- The interval of the poll for an interrupt, set anew. -/
def State.polls (s : State) (n : Nat) : State := { s with pollAfter := n }

theorem storeList_polls (gs : List Target) (vs : List Word) (s : State) (n : Nat) :
    storeList gs vs (s.polls n) = (storeList gs vs s).polls n := by
  induction gs generalizing vs s with
  | nil => rfl
  | cons g gs ih =>
    cases vs with
    | nil => rfl
    | cons v vs =>
      rw [storeList_cons, storeList_cons, ← ih]
      cases g <;> rfl

/-! ### What an element does -/

/-- An element of a list: words stored, registers loaded, and X loaded with the link. -/
structure ElementEffect where
  targets : List Target
  words : List Word
  regs : List (Reg × Word)
  link : PhysAddr

/-- The words of an element stored. -/
def ElementEffect.stored (e : ElementEffect) (s : State) : State := storeList e.targets e.words s

/-- The state after an element. -/
def ElementEffect.next (e : ElementEffect) (s : State) : State :=
  (e.regs.foldl (fun u r => u.setReg r.1 r.2) (e.stored s)).setReg .x ((e.stored s).physWord e.link)

/-- SETPT (R421). -/
def setptEffect (s : State) : ElementEffect :=
  let item (k : Word) := elementWord (bankReg (s.reg .t)) k s
  let a := putBit (s.physWord (item 2)) 11 false
  let b := ldbtxAddress (s.physWord (item 1))
  { targets := [s.wordTarget b, s.wordTarget (b + 1)]
    words := [a, s.physWord (item 3)]
    regs := [(.a, a), (.d, s.physWord (item 3)), (.b, b)]
    link := item 0 }

/-- ENPT and REPT (R428, R429). -/
def enterEffect (mask : Word) (s : State) : ElementEffect :=
  let item (k : Word) := elementWord s.cmbnk k s
  let a := s.physWord (item 2) &&& mask
  let b := entryAddress (s.physWord (item 3))
  { targets := [s.wordTarget b, s.wordTarget (b + 1)]
    words := [a, s.reg .x >>> 2]
    regs := [(.a, a), (.b, b)]
    link := item 0 }

/-- The entry of the element of CLEPT and CLEPU (R422). -/
def cleptAddress (s : State) : Word := ldbtxAddress (s.physWord (elementWord (bankReg (s.reg .t)) 1 s))

/-- The stores that save and clear a used entry (R422). -/
def saveTargets (s : State) : List Target :=
  if s.word (cleptAddress s) = 0 then []
  else [s.physTarget (elementWord (bankReg (s.reg .t)) s.cfg.cleptDisp s), s.wordTarget (cleptAddress s)]

/-- CLEPT, or the rest of CLEPU after stores of its own (R422, R423). -/
def cleptEffect (targets : List Target) (words : List Word) (s : State) : ElementEffect :=
  { targets := targets ++ saveTargets s
    words := words ++ [s.word (cleptAddress s), 0]
    regs := [(.a, s.word (cleptAddress s)), (.b, cleptAddress s)]
    link := elementWord (bankReg (s.reg .t)) 0 s }

/-- The page of an element of CLEPU (R423). -/
def clepuPage (s : State) : BitVec 7 := Config.pageOfIndex (s.physWord (elementWord (bankReg (s.reg .t)) 1 s))

/-- The word of the page map that holds it (R423; log 37). -/
def pageMapTarget (s : State) : Target :=
  s.physTarget (physAddr (if s.cfg.pageMapPhysical then bankReg (s.reg .t) else 0)
    (s.reg .l + ((clepuPage s).extractLsb' 4 3).setWidth 16))

/-- CLEPU (R423). -/
def clepuEffect (s : State) : ElementEffect :=
  cleptEffect [pageMapTarget s] [putBit (s.wordAt (pageMapTarget s))
    (bitPosition s.cfg.pageMapOrder ((clepuPage s).extractLsb' 0 4)) ((s.word (cleptAddress s)).getLsbD 11)] s

/-- The entry of the element of CLPT (R426). -/
def clptAddress (s : State) : Word := entryAddress (s.physWord (elementWord s.cmbnk 3 s))

/-- CLPT (R426). -/
def clptEffect (s : State) : ElementEffect :=
  let e := clptAddress s
  let save := if (s.reg .a).msb = false ∧ s.word e ≠ 0 then [(s.physTarget (elementWord s.cmbnk 2 s), s.word e)] else []
  let clear := if (s.reg .a).msb ∨ s.word e ≠ 0 ∧ s.reg .a = 0 then [(s.wordTarget e, 0)] else []
  { targets := (save ++ clear).map Prod.fst
    words := (save ++ clear).map Prod.snd
    regs := [(.b, e)]
    link := elementWord s.cmbnk 0 s }

/-! ### The elements with paging off -/

section
variable {s : State} (h : s.plain)
include h

theorem setptElement_plain : inOrder setptElement s = .ok () ((setptEffect s).next s) := by
  have hs := plain_store h
  have hcheck : ∃ u, setptElement .check s = .ok () u := by
    simp only [setptElement, readPhys_plain h, Res.bind_ok, writeVirtIn_plain h, storeIn_check]
    exact ⟨_, rfl⟩
  refine inOrder_of_ok hcheck.choose_spec ?_
  simp only [setptElement, readPhys_plain h, Res.bind_ok, writeVirtIn_plain h, storeIn_perform, writeVirtIn_plain (hs _ _),
    readPhys_plain (plain_store (hs _ _) _ _), wordTarget_store, elementWord, reg_store]
  rfl

theorem enterElement_plain (mask : Word) : inOrder (enterElement mask) s = .ok () ((enterEffect mask s).next s) := by
  have hs := plain_store h
  have hcheck : ∃ u, enterElement mask .check s = .ok () u := by
    simp only [enterElement, readPhys_plain h, Res.bind_ok, writeVirtIn_plain h, storeIn_check]
    exact ⟨_, rfl⟩
  refine inOrder_of_ok hcheck.choose_spec ?_
  simp only [enterElement, readPhys_plain h, Res.bind_ok, writeVirtIn_plain h, storeIn_perform, writeVirtIn_plain (hs _ _),
    readPhys_plain (plain_store (hs _ _) _ _), wordTarget_store, elementWord, reg_store, store_cmbnk]
  rfl

theorem cleptRead_plain : cleptRead s = .ok (s.physWord (elementWord (bankReg (s.reg .t)) 1 s), s.word (cleptAddress s)) s := by
  simp only [cleptRead, readPhys_plain h, Res.bind_ok, readVirt_plain h]
  rfl

/-- The rest of an element after stores of its own. -/
theorem cleptFinish_plain (pass : Pass) (w a : Word) : ∃ u, cleptFinish pass w a s = .ok () u := by
  unfold cleptFinish cleptSave
  split
  · simp only [Res.bind_ok, readPhys_plain h]
    exact ⟨_, rfl⟩
  · simp only [writePhysIn_plain h, Res.bind_ok, writeVirtIn_plain (plain_storeIn h _ _ _),
      readPhys_plain (plain_storeIn (plain_storeIn h _ _ _) _ _ _)]
    exact ⟨_, rfl⟩

theorem cleptFinish_perform {gs : List Target} {vs : List Word} (hl : gs.length = vs.length) :
    cleptFinish .perform (s.physWord (elementWord (bankReg (s.reg .t)) 1 s)) (s.word (cleptAddress s)) (storeList gs vs s)
      = .ok () ((cleptEffect gs vs s).next s) := by
  have hu := plain_storeList h gs vs
  obtain ⟨m, p, he⟩ := storeList_eq gs vs s
  rw [ElementEffect.next, ElementEffect.stored, cleptEffect, saveTargets, storeList_append hl]
  generalize storeList gs vs s = u at *
  subst he
  have hs := plain_store hu
  by_cases h0 : s.word (cleptAddress s) = 0
  · simp only [cleptFinish, cleptSave, if_pos h0, Res.bind_ok, readPhys_plain hu]
    rfl
  · simp only [cleptFinish, cleptSave, if_neg h0, Res.bind_ok, writePhysIn_plain hu, storeIn_perform,
      writeVirtIn_plain (hs _ _), readPhys_plain (plain_store (hs _ _) _ _), wordTarget_store, elementWord, reg_store]
    rfl

theorem cleptElement_plain : inOrder cleptElement s = .ok () ((cleptEffect [] [] s).next s) := by
  obtain ⟨u, hcheck⟩ := cleptFinish_plain h .check (s.physWord (elementWord (bankReg (s.reg .t)) 1 s)) (s.word (cleptAddress s))
  refine inOrder_of_ok (b := ()) (u := u) ?_ ?_
  · rw [cleptElement, cleptRead_plain h, Res.bind_ok, hcheck]
  · rw [cleptElement, cleptRead_plain h, Res.bind_ok]
    exact cleptFinish_perform h (gs := []) rfl

theorem resolvePageMap_plain (kind : AccessKind) : resolvePageMap kind (clepuPage s) s = .ok (pageMapTarget s) s := by
  unfold resolvePageMap pageMapTarget
  dsimp only
  split
  · rw [resolvePhys_plain h]
  · rw [resolve_plain h]
    rfl

theorem markPageMap_plain (pass : Pass) (used : Bool) : markPageMap pass (clepuPage s) used s =
    .ok () (storeIn pass (pageMapTarget s) (putBit (s.wordAt (pageMapTarget s))
      (bitPosition s.cfg.pageMapOrder ((clepuPage s).extractLsb' 0 4)) used) s) := by
  have hpeek : peek (pageMapTarget s) s = (s.wordAt (pageMapTarget s), s) := peek_of_ne_absent (physTarget_ne_absent s _) s
  rw [markPageMap, resolvePageMap_plain h, Res.bind_ok, resolvePageMap_plain h, Res.bind_ok, load, hpeek]
  rfl

theorem clepuElement_plain : inOrder clepuElement s = .ok () ((clepuEffect s).next s) := by
  have hpage : Config.pageOfIndex (s.physWord (elementWord (bankReg (s.reg .t)) 1 s)) = clepuPage s := rfl
  obtain ⟨u, hcheck⟩ := cleptFinish_plain h .check (s.physWord (elementWord (bankReg (s.reg .t)) 1 s)) (s.word (cleptAddress s))
  refine inOrder_of_ok (b := ()) (u := u) ?_ ?_
  · rw [clepuElement, cleptRead_plain h, Res.bind_ok, hpage, markPageMap_plain h, Res.bind_ok, storeIn_check, hcheck]
  · rw [clepuElement, cleptRead_plain h, Res.bind_ok, hpage, markPageMap_plain h, Res.bind_ok, storeIn_perform,
      clepuEffect, ← cleptFinish_perform h rfl]
    rfl

/-- What CLPT does with its entry, by the sign of A (R426). -/
theorem clptEntry_plain (pass : Pass) : ∃ u, clptEntry pass (clptAddress s) s = .ok () u ∧ u.plain
    ∧ (pass = .perform → u = (clptEffect s).stored s) := by
  have hs := plain_storeIn h pass
  unfold ElementEffect.stored clptEffect clptEntry
  dsimp only
  by_cases hm : (s.reg .a).msb = true
  · rw [if_pos hm, writeVirtIn_plain h]
    refine ⟨_, rfl, hs _ _, ?_⟩
    rintro rfl
    rw [if_neg (fun e => by rw [hm] at e; exact absurd e.1 (by decide)), if_pos (.inl hm)]
    rfl
  · have hm' : (s.reg .a).msb = false := by simpa using hm
    rw [if_neg hm, readVirt_plain h, Res.bind_ok]
    by_cases h0 : s.word (clptAddress s) = 0
    · rw [if_pos h0]
      refine ⟨_, rfl, h, fun _ => ?_⟩
      rw [if_neg (fun e => e.2 h0), if_neg (fun e => e.elim hm fun e => e.1 h0)]
      rfl
    · rw [if_neg h0, writePhysIn_plain h, Res.bind_ok]
      by_cases ha : s.reg .a = 0
      · rw [if_pos ha, writeVirtIn_plain (hs _ _)]
        refine ⟨_, rfl, plain_storeIn (hs _ _) _ _ _, ?_⟩
        rintro rfl
        rw [if_pos ⟨hm', h0⟩, if_pos (.inr ⟨h0, ha⟩), storeIn_perform, storeIn_perform, wordTarget_store]
        rfl
      · rw [if_neg ha]
        refine ⟨_, rfl, hs _ _, ?_⟩
        rintro rfl
        rw [if_pos ⟨hm', h0⟩, if_neg (fun e => e.elim hm fun e => ha e.2)]
        rfl

theorem clptElement_plain : inOrder clptElement s = .ok () ((clptEffect s).next s) := by
  obtain ⟨u, hcheck, hu, -⟩ := clptEntry_plain h .check
  obtain ⟨v, hperform, hv, hstored⟩ := clptEntry_plain h .perform
  refine inOrder_of_ok (b := ()) (u := (u.setReg .b (clptAddress s)).setReg .x (u.physWord (elementWord u.cmbnk 0 u))) ?_ ?_
  · simp only [clptElement, readPhys_plain h, Res.bind_ok]
    rw [show clptEntry .check (entryAddress (s.physWord (elementWord s.cmbnk 3 s))) s = _ from hcheck]
    simp only [readPhys_plain hu, Res.bind_ok]
    rfl
  · simp only [clptElement, readPhys_plain h, Res.bind_ok]
    rw [show clptEntry .perform (entryAddress (s.physWord (elementWord s.cmbnk 3 s))) s = _ from hperform]
    simp only [readPhys_plain hv, Res.bind_ok]
    rw [ElementEffect.next, ← hstored rfl]
    obtain ⟨m, p, he⟩ := storeList_eq (clptEffect s).targets (clptEffect s).words s
    obtain rfl : v = { s with mem := m, ptab := p } := (hstored rfl).trans he
    rfl

end

end Sys2Proof.Machine
end

section
/-! PROOF. The SINTRAN III list instructions with paging off: one element (O56, O57) and the walks (O55). -/

namespace Sys2Proof.Machine

/-! ### What an element leaves -/

/-- Registers loaded one after the other. -/
def State.setRegs (s : State) (rs : List (Reg × Word)) : State := rs.foldl (fun u r => u.setReg r.1 r.2) s

theorem setRegs_cons (s : State) (r : Reg × Word) (rs : List (Reg × Word)) :
    s.setRegs (r :: rs) = (s.setReg r.1 r.2).setRegs rs := rfl

theorem setRegs_eq (s : State) (rs : List (Reg × Word)) : ∃ l, s.setRegs rs = { s with levels := l } := by
  induction rs generalizing s with
  | nil => exact ⟨s.levels, rfl⟩
  | cons r rs ih =>
    obtain ⟨l, hl⟩ := ih (s.setReg r.1 r.2)
    exact ⟨l, hl⟩

theorem reg_setRegs_of_notMem {rs : List (Reg × Word)} {c : Reg} (h : c ∉ rs.map Prod.fst) (s : State) :
    (s.setRegs rs).reg c = s.reg c := by
  induction rs generalizing s with
  | nil => rfl
  | cons r rs ih =>
    rw [List.map_cons, List.mem_cons, not_or] at h
    rw [setRegs_cons, ih h.2, State.reg_setReg_ne _ _ h.1]

theorem State.Frame.setRegsIn {ds : List Reg} {fs : List Flag} {gs : List Target} {s : State} {rs : List (Reg × Word)} :
    ∀ {t : State}, s.Frame ds fs gs t → rs.map Prod.fst ⊆ ds → s.Frame ds fs gs (t.setRegs rs) := by
  induction rs with
  | nil => exact fun h _ => h
  | cons r rs ih =>
    intro t h hsub
    rw [List.map_cons, List.cons_subset] at hsub
    exact ih (h.setRegIn r.2 hsub.1) hsub.2

theorem setRegs_polls (rs : List (Reg × Word)) (s : State) (n : Nat) : (s.polls n).setRegs rs = (s.setRegs rs).polls n := by
  induction rs generalizing s with
  | nil => rfl
  | cons r rs ih => exact ih (s.setReg r.1 r.2)

section
variable (e : ElementEffect) {s : State}

theorem next_eq (s : State) : e.next s = ((e.stored s).setRegs e.regs).setReg .x ((e.stored s).physWord e.link) := rfl

theorem next_special (s : State) : { e.next s with levels := s.levels, mem := s.mem, ptab := s.ptab } = s := by
  obtain ⟨m, p, hs⟩ := storeList_eq e.targets e.words s
  obtain ⟨l, hl⟩ := setRegs_eq (e.stored s) e.regs
  rw [next_eq, hl, ElementEffect.stored, hs]
  rfl

theorem plain_next (h : s.plain) : (e.next s).plain := by
  have hs := next_special e s
  unfold State.plain at h ⊢
  rw [← hs] at h
  exact h

theorem wordAt_next (s : State) : (e.next s).wordAt = (e.stored s).wordAt := by
  obtain ⟨l, hl⟩ := setRegs_eq (e.stored s) e.regs
  funext g
  rw [next_eq, wordAt_setReg, hl]
  cases g <;> rfl

theorem physTarget_stored (s : State) (pa : PhysAddr) : (e.stored s).physTarget pa = s.physTarget pa := by
  obtain ⟨m, p, hs⟩ := storeList_eq e.targets e.words s
  rw [ElementEffect.stored, hs]
  rfl

theorem physTarget_next (s : State) (pa : PhysAddr) : (e.next s).physTarget pa = s.physTarget pa := by
  rw [← physTarget_stored e s]
  obtain ⟨l, hl⟩ := setRegs_eq (e.stored s) e.regs
  rw [next_eq, hl]
  rfl

theorem physWord_next (s : State) (pa : PhysAddr) : (e.next s).physWord pa = (e.stored s).physWord pa := by
  rw [State.physWord, wordAt_next, physTarget_next, State.physWord, physTarget_stored]

theorem memoryWf_next (hw : s.memoryWf) : (e.next s).memoryWf := by
  have hs : (e.stored s).memoryWf := storeList_memoryWf _ _ hw
  obtain ⟨l, hl⟩ := setRegs_eq (e.stored s) e.regs
  rw [next_eq, hl]
  exact hs

theorem frame_next (hw : s.memoryWf) {ds : List Reg} {gs : List Target} (hr : e.regs.map Prod.fst ⊆ ds) (hx : Reg.x ∈ ds)
    (hg : e.targets ⊆ gs) : s.Frame ds [] gs (e.next s) :=
  (((State.Frame.refl ds [] gs s).storeListIn _ e.words hw hg).setRegsIn hr).setRegIn _ hx

theorem reg_next (s : State) {c : Reg} (hc : c ∉ e.regs.map Prod.fst) (hx : c ≠ .x) : (e.next s).reg c = s.reg c := by
  rw [next_eq, State.reg_setReg_ne _ _ hx, reg_setRegs_of_notMem hc, ElementEffect.stored, reg_storeList]

theorem reg_x_next (s : State) : (e.next s).reg .x = (e.next s).physWord e.link := by
  rw [physWord_next, next_eq, State.reg_setReg_same]

theorem next_polls (s : State) (n : Nat) : e.next (s.polls n) = (e.next s).polls n := by
  have hs : e.stored (s.polls n) = (e.stored s).polls n := storeList_polls ..
  rw [next_eq, next_eq, hs, setRegs_polls]
  rfl

end

/-! ### One element -/

/-- P goes on when a walk has come to its end. -/
def State.ended (t : State) (done : Bool) : State := if done then t.advance else t

theorem reg_ended (t : State) (done : Bool) {c : Reg} (hc : c ≠ .p) : (t.ended done).reg c = t.reg c := by
  cases done with
  | true => exact t.reg_advance hc
  | false => rfl

theorem reg_p_ended (t : State) (done : Bool) : (t.ended done).reg .p = if done then t.reg .p + 1 else t.reg .p := by
  cases done with
  | true => exact t.reg_advance_p
  | false => rfl

@[simp] theorem wordAt_ended (t : State) (done : Bool) (g : Target) : (t.ended done).wordAt g = t.wordAt g := by
  cases done with
  | true => exact State.wordAt_advance ..
  | false => rfl

@[simp] theorem physWord_ended (t : State) (done : Bool) (pa : PhysAddr) : (t.ended done).physWord pa = t.physWord pa := by
  cases done with
  | true => exact physWord_advance ..
  | false => rfl

theorem State.Frame.endedIn {rs : List Reg} {fs : List Flag} {gs : List Target} {s t : State} (h : s.Frame rs fs gs t)
    (done : Bool) (hp : Reg.p ∈ rs) : s.Frame rs fs gs (t.ended done) := by
  cases done with
  | true => exact h.advanceIn hp
  | false => exact h

section
variable {i : Instr} {element : State → Res Unit} {s t : State} (h : s.plain) (hpoll : s.pollAfter = 1) (hx : s.reg .x ≠ 0)
  (he : element s = .ok () t)
include h hpoll hx he

theorem exec_walkList_one (hexec : exec i s = walkList element s) : exec i s = .next (t.ended (decide (t.reg .x = 0))) := by
  rw [hexec, walkList, privileged_of_not_user _ (userMode_plain h), hpoll, listLoop, if_neg hx, he, Res.bind_ok, listLoop,
    Res.andThen_ok, State.ended]
  simp only [decide_eq_true_eq]

theorem exec_walkPolled_one (hexec : exec i s = walkPolled element s) : exec i s = .next (t.ended false) := by
  rw [hexec, walkPolled, privileged_of_not_user _ (userMode_plain h), hpoll, pollLoop, if_neg hx, he, Res.bind_ok,
    Res.andThen_ok]
  rfl

end

/-- The facts that every element shares: X is the link, P goes on at the end, and the frame. -/
theorem ended_next {e : ElementEffect} {s : State} (hw : s.memoryWf) (done : Bool) {ds : List Reg} {gs : List Target}
    (hp : Reg.p ∉ e.regs.map Prod.fst) (hr : e.regs.map Prod.fst ⊆ ds) (hx : Reg.x ∈ ds) (hpd : Reg.p ∈ ds)
    (hg : e.targets ⊆ gs) :
    let t := (e.next s).ended done
    t.reg .x = t.physWord e.link ∧ t.reg .p = (if done then s.reg .p + 1 else s.reg .p) ∧ s.Frame ds [] gs t := by
  refine ⟨?_, ?_, (frame_next e hw hr hx hg).endedIn done hpd⟩
  · rw [reg_ended _ _ (by decide), reg_x_next, physWord_ended]
  · rw [reg_p_ended, reg_next e s hp (by decide)]

/-- A word and the next one stored. -/
theorem word_store_pair {s : State} (hw : s.memoryWf) (b a v : Word) :
    (storeList [s.wordTarget b, s.wordTarget (b + 1)] [a, v] s).wordAt (s.wordTarget b) = a
      ∧ (storeList [s.wordTarget b, s.wordTarget (b + 1)] [a, v] s).wordAt (s.wordTarget (b + 1)) = v := by
  have hn : [s.wordTarget b, s.wordTarget (b + 1)].Nodup := by simp [wordTarget_inj]
  have hwords := map_wordAt_storeList (vs := [a, v]) hn (by simp [State.wordTarget]) hw rfl
  simpa using hwords

theorem putBit_11_false (w : Word) : putBit w 11 false = w &&& 0o173777 := rfl

theorem word_ended_next (e : ElementEffect) (s : State) (done : Bool) (a : Word) :
    ((e.next s).ended done).word a = (e.stored s).wordAt (s.wordTarget a) := by
  rw [State.word, physWord_ended, physWord_next, State.physWord, physTarget_stored]
  rfl

/-- One element of ENPT or REPT. -/
theorem exec_enter_element {i : Instr} {mask : Word} {s : State} (hw : s.memoryWf) (h : s.plain) (hpoll : s.pollAfter = 1)
    (hx : s.reg .x ≠ 0) (hexec : exec i s = walkPolled (inOrder (enterElement mask)) s) :
    let item (k : Word) : PhysAddr := s.cmbnk ++ (s.reg .x + k)
    let a := s.physWord (item 2) &&& mask
    let b := 2 * (s.physWord (item 3) ||| 0o176000)
    ∃ t, exec i s = .next t ∧ t.reg .a = a ∧ t.reg .b = b ∧ t.word b = a ∧ t.word (b + 1) = s.reg .x >>> 2
      ∧ t.reg .x = t.physWord (item 0) ∧ t.reg .p = s.reg .p
      ∧ s.Frame [.a, .b, .x, .p] [] [s.wordTarget b, s.wordTarget (b + 1)] t := by
  intro item a b
  obtain ⟨hb, hb1⟩ := word_store_pair hw b a (s.reg .x >>> 2)
  obtain ⟨hlink, hp, hf⟩ := ended_next (e := enterEffect mask s) hw false (ds := [.a, .b, .x, .p]) (by simp [enterEffect])
    (by simp [enterEffect]) (by simp) (by simp) (List.Subset.refl _)
  refine ⟨_, exec_walkPolled_one h hpoll hx (enterElement_plain h mask) hexec, ?_, ?_, ?_, ?_, hlink, hp, hf⟩
  · rw [reg_ended _ _ (by decide), next_eq]
    simp only [enterEffect, State.setRegs, List.foldl_cons, List.foldl_nil, State.reg_setReg]
    rfl
  · rw [reg_ended _ _ (by decide), next_eq]
    simp only [enterEffect, State.setRegs, List.foldl_cons, List.foldl_nil, State.reg_setReg]
    rfl
  · rw [word_ended_next]
    exact hb
  · rw [word_ended_next]
    exact hb1

/-- One element of SETPT. -/
theorem exec_setpt_element {s : State} (hw : s.memoryWf) (h : s.plain) (hpoll : s.pollAfter = 1) (hx : s.reg .x ≠ 0) :
    let item (k : Word) : PhysAddr := (s.reg .t).extractLsb' 0 8 ++ (s.reg .x + k)
    let a := s.physWord (item 2) &&& 0o173777
    let b := 0o177000 ||| 2 * s.physWord (item 1)
    ∃ t, exec .setpt s = .next t ∧ t.reg .a = a ∧ t.reg .b = b ∧ t.word b = a ∧ t.word (b + 1) = s.physWord (item 3)
      ∧ t.reg .x = t.physWord (item 0) ∧ t.reg .d = s.physWord (item 3)
      ∧ t.reg .p = (if t.reg .x = 0 then s.reg .p + 1 else s.reg .p)
      ∧ s.Frame [.a, .d, .b, .x, .p] [] [s.wordTarget b, s.wordTarget (b + 1)] t := by
  intro item a b
  let done := decide (((setptEffect s).next s).reg .x = 0)
  obtain ⟨hb, hb1⟩ := word_store_pair hw b a (s.physWord (item 3))
  obtain ⟨hlink, hp, hf⟩ := ended_next (e := setptEffect s) hw done (ds := [.a, .d, .b, .x, .p]) (by simp [setptEffect])
    (by simp [setptEffect]) (by simp) (by simp) (List.Subset.refl _)
  refine ⟨_, exec_walkList_one h hpoll hx (setptElement_plain h) rfl, ?_, ?_, ?_, ?_, hlink, ?_, ?_, hf⟩
  · rw [reg_ended _ _ (by decide), next_eq]
    simp only [setptEffect, State.setRegs, List.foldl_cons, List.foldl_nil, State.reg_setReg]
    rfl
  · rw [reg_ended _ _ (by decide), next_eq]
    simp only [setptEffect, State.setRegs, List.foldl_cons, List.foldl_nil, State.reg_setReg]
    rfl
  · rw [word_ended_next]
    exact hb
  · rw [word_ended_next]
    exact hb1
  · rw [reg_ended _ _ (by decide), next_eq]
    simp only [setptEffect, State.setRegs, List.foldl_cons, List.foldl_nil, State.reg_setReg]
    rfl
  · rw [reg_ended (c := .x) _ _ (by decide)]
    exact hp.trans (by simp only [done, decide_eq_true_eq])

/-! ### One element cleared -/

/-- One element of CLEPT, or of CLEPU after stores of its own. -/
theorem exec_clept_element {i : Instr} {element : State → Res Unit} {s : State} {gs : List Target} {vs : List Word}
    (hw : s.memoryWf) (h : s.plain) (hpoll : s.pollAfter = 1) (hx : s.reg .x ≠ 0) (hl : gs.length = vs.length)
    (he : element s = .ok () ((cleptEffect gs vs s).next s)) (hexec : exec i s = walkList element s) :
    let b := cleptAddress s
    let a := s.word b
    let save := s.physTarget (elementWord (bankReg (s.reg .t)) s.cfg.cleptDisp s)
    ∃ t, exec i s = .next t ∧ t.reg .a = a ∧ t.reg .b = b
      ∧ (a ≠ 0 → t.word b = 0 ∧ (save ≠ s.wordTarget b → t.wordAt save = a))
      ∧ (∀ g, g ∉ saveTargets s → t.wordAt g = (storeList gs vs s).wordAt g)
      ∧ t.reg .x = t.physWord (elementWord (bankReg (s.reg .t)) 0 s)
      ∧ t.reg .p = (if t.reg .x = 0 then s.reg .p + 1 else s.reg .p)
      ∧ s.Frame [.a, .b, .x, .p] [] (gs ++ saveTargets s) t := by
  intro b a save
  let e := cleptEffect gs vs s
  have hstored : e.stored s = storeList (saveTargets s) [a, 0] (storeList gs vs s) := storeList_append hl s
  have hu : (storeList gs vs s).memoryWf := storeList_memoryWf gs vs hw
  let done := decide ((e.next s).reg .x = 0)
  obtain ⟨hlink, hp, hf⟩ := ended_next (e := e) hw done (ds := [.a, .b, .x, .p]) (by simp [e, cleptEffect])
    (by simp [e, cleptEffect]) (by simp) (by simp) (List.Subset.refl _)
  refine ⟨_, exec_walkList_one h hpoll hx he hexec, ?_, ?_, fun ha => ?_, fun g hg => ?_, hlink, ?_, hf⟩
  · rw [reg_ended _ _ (by decide), next_eq]
    simp only [cleptEffect, State.setRegs, List.foldl_cons, List.foldl_nil, State.reg_setReg]
    rfl
  · rw [reg_ended _ _ (by decide), next_eq]
    simp only [cleptEffect, State.setRegs, List.foldl_cons, List.foldl_nil, State.reg_setReg]
    rfl
  · have hpair : e.stored s = store (s.wordTarget b) 0 (store save a (storeList gs vs s)) := by
      rw [hstored, saveTargets, if_neg ha]
      rfl
    refine ⟨?_, fun hne => ?_⟩
    · rw [word_ended_next, hpair, wordAt_store _ (store_memoryWf hu) (wordTarget_ne_absent s b)]
    · rw [wordAt_ended, wordAt_next, hpair, wordAt_store_ne _ (store_memoryWf hu) hne,
        wordAt_store _ hu (physTarget_ne_absent s _)]
  · rw [wordAt_ended, wordAt_next, hstored, wordAt_storeList_of_notMem _ _ hu hg]
  · rw [reg_ended (c := .x) _ _ (by decide)]
    exact hp.trans (by simp only [done, e, decide_eq_true_eq])

/-- The bit of a page in the page map (R423). -/
theorem pageBit_eq (order : BitOrder) (page : BitVec 7) : bitPosition order (page.extractLsb' 0 4) = match order with
    | .fromBit0 => page.toNat % 16
    | .fromBit15 => 15 - page.toNat % 16 := by
  cases order <;> simp [bitPosition]

theorem msb_iff_toInt_neg (w : Word) : w.msb = true ↔ w.toInt < 0 := by
  rw [BitVec.msb_eq_toInt, decide_eq_true_iff]

/-- One element of CLPT. -/
theorem exec_clpt_element {s : State} (hw : s.memoryWf) (h : s.plain) (hpoll : s.pollAfter = 1) (hx : s.reg .x ≠ 0) :
    let e := clptAddress s
    let r := s.word e
    let keep := s.physTarget (elementWord s.cmbnk 2 s)
    let saves := r ≠ 0 ∧ 0 ≤ (s.reg .a).toInt
    let clears := (s.reg .a).toInt < 0 ∨ (r ≠ 0 ∧ s.reg .a = 0)
    ∃ t, exec .clpt s = .next t ∧ t.reg .b = e ∧ (clears → t.word e = 0)
      ∧ (saves → (keep ≠ s.wordTarget e ∨ ¬clears) → t.wordAt keep = r)
      ∧ t.reg .x = t.physWord (elementWord s.cmbnk 0 s) ∧ t.reg .p = s.reg .p
      ∧ s.Frame [.b, .x, .p] [] ((if saves then [keep] else []) ++ (if clears then [s.wordTarget e] else [])) t := by
  intro e r keep saves clears
  have hsaves : ((s.reg .a).msb = false ∧ s.word (clptAddress s) ≠ 0) ↔ saves := by
    have := msb_iff_toInt_neg (s.reg .a)
    rw [← Bool.not_eq_true, this, not_lt, and_comm]
  have hclears : ((s.reg .a).msb = true ∨ s.word (clptAddress s) ≠ 0 ∧ s.reg .a = 0) ↔ clears := by
    rw [msb_iff_toInt_neg]
  have htargets : (clptEffect s).targets = (if saves then [keep] else []) ++ (if clears then [s.wordTarget e] else []) := by
    unfold clptEffect
    dsimp only
    rw [if_congr hsaves rfl rfl, if_congr hclears rfl rfl, List.map_append, apply_ite (List.map _), apply_ite (List.map _)]
    rfl
  have hwords : (clptEffect s).words = (if saves then [r] else []) ++ (if clears then [0] else []) := by
    unfold clptEffect
    dsimp only
    rw [if_congr hsaves rfl rfl, if_congr hclears rfl rfl, List.map_append, apply_ite (List.map _), apply_ite (List.map _)]
    rfl
  have hstored : (clptEffect s).stored s = storeList (if clears then [s.wordTarget e] else []) (if clears then [0] else [])
      (storeList (if saves then [keep] else []) (if saves then [r] else []) s) := by
    rw [ElementEffect.stored, htargets, hwords, storeList_append (by split <;> rfl)]
  have hu : (storeList (if saves then [keep] else []) (if saves then [r] else []) s).memoryWf := storeList_memoryWf _ _ hw
  obtain ⟨hlink, hp, hf⟩ := ended_next (e := clptEffect s) hw false (ds := [.b, .x, .p]) (by simp [clptEffect])
    (by simp [clptEffect]) (by simp) (by simp) (List.Subset.refl _)
  refine ⟨_, exec_walkPolled_one h hpoll hx (clptElement_plain h) rfl, ?_, fun hc => ?_, fun hs hk => ?_, hlink, hp,
    htargets ▸ hf⟩
  · rw [reg_ended _ _ (by decide), next_eq]
    simp only [clptEffect, State.setRegs, List.foldl_cons, List.foldl_nil, State.reg_setReg]
    rfl
  · rw [word_ended_next, hstored, if_pos hc, if_pos hc]
    exact wordAt_store _ hu (wordTarget_ne_absent s e)
  · have hkeep : keep ∉ (if clears then [s.wordTarget e] else []) := by
      split
      · next hc => simpa using hk.resolve_right (not_not.mpr hc)
      · exact List.not_mem_nil
    rw [wordAt_ended, wordAt_next, hstored, wordAt_storeList_of_notMem _ _ hu hkeep, if_pos hs, if_pos hs]
    exact wordAt_store _ hw (physTarget_ne_absent s _)

/-- Settles O57. -/
theorem clearElement : Obligations.ClearElement := by
  intro s hw h hpoll hx item bank index b a save cleared page mapOffset map mapBit e r keep saves clears
  refine ⟨?_, exec_clpt_element hw h hpoll hx⟩
  simp only [List.forall_mem_cons]
  refine ⟨?_, ?_, List.forall_mem_nil _⟩
  · obtain ⟨t, he, ha, hb, hsave, -, hlink, hp, hf⟩ :=
      exec_clept_element (i := .clept) hw h hpoll hx rfl (cleptElement_plain h) rfl
    exact ⟨t, he, ha, hb, hsave, (fun hi => by cases hi), hlink, hp, hf⟩
  · obtain ⟨t, he, ha, hb, hsave, hother, hlink, hp, hf⟩ :=
      exec_clept_element (i := .clepu) hw h hpoll hx rfl (clepuElement_plain h) rfl
    refine ⟨t, he, ha, hb, hsave, fun _ hm => (hother map hm).trans ?_, hlink, hp, hf⟩
    refine (wordAt_store _ hw (physTarget_ne_absent s _)).trans ?_
    exact congrArg (putBit (s.wordAt map) · (a.getLsbD 11)) (pageBit_eq s.cfg.pageMapOrder page)

end Sys2Proof.Machine

namespace Sys2Proof
open Machine

/-- Settles O56. -/
theorem enterElement : Obligations.EnterElement := by
  intro s hw h hpoll hx item entered bank
  refine ⟨?_, ?_, ?_⟩
  · obtain ⟨t, he, ha, hb, hwb, hwb1, hlink, hd, hp, hf⟩ := exec_setpt_element hw h hpoll hx
    exact ⟨t, he, ha, hb, hwb, hwb1, hlink, fun _ => hd, by simpa using hp, hf⟩
  · obtain ⟨t, he, ha, hb, hwb, hwb1, hlink, hp, hf⟩ := exec_enter_element (i := .enpt) hw h hpoll hx rfl
    exact ⟨t, he, ha, hb, hwb, hwb1, hlink, fun hd => absurd hd (by decide), by simpa using hp, hf⟩
  · obtain ⟨t, he, ha, hb, hwb, hwb1, hlink, hp, hf⟩ := exec_enter_element (i := .rept) hw h hpoll hx rfl
    exact ⟨t, he, ha, hb, hwb, hwb1, hlink, fun hd => absurd hd (by decide), by simpa using hp, hf⟩

end Sys2Proof
end

section
/-! PROOF. The list instructions walk their list (O55). -/

namespace Sys2Proof.Machine

/-! ### What a walk keeps -/

/-- What the elements of a walk keep: memory everywhere, every register but A, D, B and X, the flags, the other levels and the
special registers. -/
structure State.Walked (s t : State) : Prop where
  plain : t.plain
  memoryWf : t.memoryWf
  reg : ∀ c, c ∉ [Reg.a, .d, .b, .x] → t.reg c = s.reg c
  flag : ∀ f, t.flag f = s.flag f
  level : ∀ l, l ≠ s.pil → t.level l = s.level l
  special : { t with levels := s.levels, mem := s.mem, ptab := s.ptab } = s

theorem State.Walked.refl {s : State} (h : s.plain) (hw : s.memoryWf) : s.Walked s :=
  ⟨h, hw, fun _ _ => rfl, fun _ => rfl, fun _ _ => rfl, rfl⟩

theorem State.Walked.pil {s t : State} (h : s.Walked t) : t.pil = s.pil := by
  rw [← h.special]

theorem State.Walked.trans {s t u : State} (h : s.Walked t) (k : t.Walked u) : s.Walked u := by
  refine ⟨k.plain, k.memoryWf, fun c hc => (k.reg c hc).trans (h.reg c hc), fun f => (k.flag f).trans (h.flag f),
    fun l hl => (k.level l (by rwa [h.pil])).trans (h.level l hl), ?_⟩
  have hs := congrArg (fun v : State => { v with levels := s.levels, mem := s.mem, ptab := s.ptab }) k.special
  exact hs.trans h.special

/-- An element, as an effect on the state. -/
structure IsElement (element : State → Res Unit) (F : State → ElementEffect) : Prop where
  run : ∀ s, s.plain → element s = .ok () ((F s).next s)
  regs : ∀ s, (F s).regs.map Prod.fst ⊆ [.a, .d, .b, .x]
  polls : ∀ s n, F (s.polls n) = F s

section
variable {element : State → Res Unit} {F : State → ElementEffect} (E : IsElement element F)
include E

theorem IsElement.walked {s : State} (h : s.plain) (hw : s.memoryWf) : s.Walked ((F s).next s) := by
  have hf := frame_next (F s) hw (ds := [.a, .d, .b, .x]) (E.regs s) (by simp) (List.Subset.refl _)
  exact ⟨plain_next _ h, memoryWf_next _ hw, hf.regs, fun f => hf.flags f (by simp), hf.levels, next_special _ _⟩

theorem IsElement.next_polls (s : State) (n : Nat) : (F (s.polls n)).next (s.polls n) = ((F s).next s).polls n := by
  rw [E.polls, Sys2Proof.Machine.next_polls]

end

/-! ### Loops that poll before an element -/

/-- The state after at most `n` elements. -/
def walk (F : State → ElementEffect) : Nat → State → State
  | 0, s => s
  | n + 1, s => if s.reg .x = 0 then s else walk F n ((F s).next s)

theorem walk_end (F : State → ElementEffect) (n : Nat) {s : State} (hx : s.reg .x = 0) : walk F n s = s := by
  cases n with
  | zero => rfl
  | succ n => rw [walk, if_pos hx]

section
variable {element : State → Res Unit} {F : State → ElementEffect} (E : IsElement element F)
include E

theorem listLoop_plain (n : Nat) {s : State} (h : s.plain) : listLoop element n s = .ok () (walk F n s) := by
  induction n generalizing s with
  | zero => rfl
  | succ n ih =>
    rw [listLoop, walk]
    split
    · rfl
    · rw [E.run s h, Res.bind_ok, ih (plain_next _ h)]

theorem walked_walk (n : Nat) {s : State} (h : s.plain) (hw : s.memoryWf) : s.Walked (walk F n s) := by
  induction n generalizing s with
  | zero => exact .refl h hw
  | succ n ih =>
    rw [walk]
    split
    · exact .refl h hw
    · exact (E.walked h hw).trans (ih (plain_next _ h) (memoryWf_next _ hw))

theorem walk_polls (n k : Nat) (s : State) : walk F n (s.polls k) = (walk F n s).polls k := by
  induction n generalizing s with
  | zero => rfl
  | succ n ih =>
    rw [walk, walk, E.next_polls, ih]
    exact (apply_ite (State.polls · k) _ _ _).symm

/-- A list instruction that polls before an element. -/
theorem walkList_plain {s : State} (h : s.plain) :
    walkList element s = .next ((walk F s.pollAfter s).ended (decide ((walk F s.pollAfter s).reg .x = 0))) := by
  rw [walkList, privileged_of_not_user _ (userMode_plain h), listLoop_plain E _ h, Res.andThen_ok, State.ended]
  simp only [decide_eq_true_eq]

end

theorem ended_polls (s : State) (b : Bool) (n : Nat) : (s.polls n).ended b = (s.ended b).polls n := by
  cases b <;> rfl

/-! ### Loops that poll after an element -/

/-- Whether the list has ended with at most `n` polls that find no interrupt, and the state then. -/
def pollWalk (F : State → ElementEffect) : Nat → State → Bool × State
  | 0, s => if s.reg .x = 0 then (true, s) else (false, (F s).next s)
  | n + 1, s => if s.reg .x = 0 then (true, s) else pollWalk F n ((F s).next s)

theorem pollWalk_end (F : State → ElementEffect) (n : Nat) {s : State} (hx : s.reg .x = 0) : pollWalk F n s = (true, s) := by
  cases n <;> rw [pollWalk, if_pos hx]

section
variable {element : State → Res Unit} {F : State → ElementEffect} (E : IsElement element F)
include E

theorem pollLoop_plain (n : Nat) {s : State} (h : s.plain) :
    pollLoop element n s = .ok (pollWalk F n s).1 (pollWalk F n s).2 := by
  induction n generalizing s with
  | zero =>
    rw [pollLoop, pollWalk]
    split
    · rfl
    · rw [E.run s h, Res.bind_ok]
  | succ n ih =>
    rw [pollLoop, pollWalk]
    split
    · rfl
    · rw [E.run s h, Res.bind_ok, ih (plain_next _ h)]

theorem walked_pollWalk (n : Nat) {s : State} (h : s.plain) (hw : s.memoryWf) :
    s.Walked (pollWalk F n s).2 ∧ ((pollWalk F n s).1 = true → (pollWalk F n s).2.reg .x = 0) := by
  induction n generalizing s with
  | zero =>
    rw [pollWalk]
    split
    · next hx => exact ⟨.refl h hw, fun _ => hx⟩
    · exact ⟨E.walked h hw, fun e => by cases e⟩
  | succ n ih =>
    rw [pollWalk]
    split
    · next hx => exact ⟨.refl h hw, fun _ => hx⟩
    · obtain ⟨hn, hx⟩ := ih (plain_next (F s) h) (memoryWf_next (F s) hw)
      exact ⟨(E.walked h hw).trans hn, hx⟩

theorem pollWalk_polls (n k : Nat) (s : State) :
    pollWalk F n (s.polls k) = ((pollWalk F n s).1, (pollWalk F n s).2.polls k) := by
  induction n generalizing s with
  | zero =>
    rw [pollWalk, pollWalk, E.next_polls]
    change (if s.reg .x = 0 then _ else _) = _
    split <;> rfl
  | succ n ih =>
    rw [pollWalk, pollWalk, E.next_polls, ih]
    change (if s.reg .x = 0 then _ else _) = _
    split <;> rfl

/-- A list instruction that polls after an element. -/
theorem walkPolled_plain {s : State} (h : s.plain) :
    walkPolled element s =
      .next ((pollWalk F (s.pollAfter - 1) s).2.ended (pollWalk F (s.pollAfter - 1) s).1) := by
  rw [walkPolled, privileged_of_not_user _ (userMode_plain h), pollLoop_plain E _ h, Res.andThen_ok]
  rfl

end

/-! ### The six instructions -/

/-- What a list instruction leaves, wherever its poll stops it. -/
theorem State.Walked.ended {s u : State} (h : s.Walked u) {done : Bool} (hd : done = true → u.reg .x = 0) :
    let t := u.ended done
    t.memoryWf ∧ (t.reg .p = s.reg .p + 1 ∧ t.reg .x = 0 ∨ t.reg .p = s.reg .p) ∧ t.reg .t = s.reg .t
      ∧ t.reg .l = s.reg .l ∧ (∀ f, t.flag f = s.flag f) ∧ (∀ l, l ≠ s.pil → t.level l = s.level l)
      ∧ { t with levels := s.levels, mem := s.mem, ptab := s.ptab } = s := by
  have hp := h.reg .p (by decide)
  cases done with
  | false =>
    exact ⟨h.memoryWf, .inr hp, h.reg .t (by decide), h.reg .l (by decide), h.flag, h.level, h.special⟩
  | true =>
    refine ⟨h.memoryWf, .inl ⟨?_, ?_⟩, ?_, ?_, fun f => ?_, fun l hl => ?_, h.special⟩
    · exact u.reg_advance_p.trans (by rw [hp])
    · exact (u.reg_advance (by decide)).trans (hd rfl)
    · exact (u.reg_advance (by decide)).trans (h.reg .t (by decide))
    · exact (u.reg_advance (by decide)).trans (h.reg .l (by decide))
    · exact (u.flag_advance f).trans (h.flag f)
    · exact (u.level_setReg_ne _ _ (by rwa [h.pil])).trans (h.level l hl)

theorem isElement_setpt : IsElement (inOrder setptElement) setptEffect :=
  ⟨fun _ => setptElement_plain, fun _ => by simp [setptEffect], fun _ _ => rfl⟩

theorem isElement_clept : IsElement (inOrder cleptElement) (cleptEffect [] []) :=
  ⟨fun _ => cleptElement_plain, fun _ => by simp [cleptEffect], fun _ _ => rfl⟩

theorem isElement_clepu : IsElement (inOrder clepuElement) clepuEffect :=
  ⟨fun _ => clepuElement_plain, fun _ => by simp [clepuEffect, cleptEffect], fun _ _ => rfl⟩

theorem isElement_clpt : IsElement (inOrder clptElement) clptEffect :=
  ⟨fun _ => clptElement_plain, fun _ => by simp [clptEffect], fun _ _ => rfl⟩

theorem isElement_enter (mask : Word) : IsElement (inOrder (enterElement mask)) (enterEffect mask) :=
  ⟨fun _ h => enterElement_plain h mask, fun _ => by simp [enterEffect], fun _ _ => rfl⟩

/-- What the statement says of all six, for one that polls before an element (`before`): with X zero at the end P goes on. -/
theorem exec_walkList_spec {i : Instr} {element : State → Res Unit} {F : State → ElementEffect} (E : IsElement element F)
    (hexec : ∀ s, exec i s = walkList element s) {s : State} (h : s.plain) (hw : s.memoryWf) (before : Prop) :
    (s.reg .x = 0 → exec i s = .next s.advance)
      ∧ ∃ t, exec i s = .next t ∧ t.memoryWf ∧ (t.reg .p = s.reg .p + 1 ∧ t.reg .x = 0 ∨ t.reg .p = s.reg .p)
        ∧ (before → t.reg .x = 0 → t.reg .p = s.reg .p + 1) ∧ t.reg .t = s.reg .t ∧ t.reg .l = s.reg .l
        ∧ (∀ f, t.flag f = s.flag f) ∧ (∀ l, l ≠ s.pil → t.level l = s.level l)
        ∧ { t with levels := s.levels, mem := s.mem, ptab := s.ptab } = s := by
  have hrun := (hexec s).trans (walkList_plain E h)
  have hwalked := walked_walk E s.pollAfter h hw
  refine ⟨fun hx => ?_, _, hrun, ?_⟩
  · rw [hrun, walk_end F _ hx, decide_eq_true hx]
    rfl
  · obtain ⟨hwf, hp, hrest⟩ := hwalked.ended (done := decide ((walk F s.pollAfter s).reg .x = 0)) of_decide_eq_true
    refine ⟨hwf, hp, fun _ hx => ?_, hrest⟩
    rw [reg_ended _ _ (by decide)] at hx
    rw [reg_p_ended, decide_eq_true hx, if_pos rfl, hwalked.reg .p (by decide)]

theorem exec_walkPolled_spec {i : Instr} {element : State → Res Unit} {F : State → ElementEffect} (E : IsElement element F)
    (hexec : ∀ s, exec i s = walkPolled element s) {s : State} (h : s.plain) (hw : s.memoryWf) {before : Prop}
    (hb : ¬before) :
    (s.reg .x = 0 → exec i s = .next s.advance)
      ∧ ∃ t, exec i s = .next t ∧ t.memoryWf ∧ (t.reg .p = s.reg .p + 1 ∧ t.reg .x = 0 ∨ t.reg .p = s.reg .p)
        ∧ (before → t.reg .x = 0 → t.reg .p = s.reg .p + 1) ∧ t.reg .t = s.reg .t ∧ t.reg .l = s.reg .l ∧ (∀ f, t.flag f = s.flag f)
        ∧ (∀ l, l ≠ s.pil → t.level l = s.level l)
        ∧ { t with levels := s.levels, mem := s.mem, ptab := s.ptab } = s := by
  have hrun := (hexec s).trans (walkPolled_plain E h)
  obtain ⟨hwalked, hdone⟩ := walked_pollWalk E (s.pollAfter - 1) h hw
  obtain ⟨hwf, hp, hrest⟩ := hwalked.ended hdone
  refine ⟨fun hx => ?_, _, hrun, hwf, hp, fun hbefore => absurd hbefore hb, hrest⟩
  rw [hrun, pollWalk_end F _ hx]
  rfl

/-- A walk of `n + 1` elements that polls after each of them is a walk of one, and a walk of `n` from there. -/
theorem exec_walkPolled_split {i : Instr} {element : State → Res Unit} {F : State → ElementEffect} (E : IsElement element F)
    (hexec : ∀ s, exec i s = walkPolled element s) {s : State} (h : s.plain) (hw : s.memoryWf) {n : Nat} (hn : 0 < n)
    (hx : s.reg .x ≠ 0) :
    ∃ t u, exec i (s.polls 1) = .next t ∧ t.reg .p = s.reg .p ∧ exec i (t.polls n) = .next u
      ∧ exec i (s.polls (n + 1)) = .next (u.polls (n + 1)) := by
  obtain ⟨m, rfl⟩ := Nat.exists_eq_add_one.mpr hn
  have hrun {v : State} (k : Nat) (hv : v.plain) : exec i (v.polls k) =
      .next (((pollWalk F (k - 1) v).2.polls k).ended (pollWalk F (k - 1) v).1) := by
    rw [hexec, walkPolled_plain E (show (v.polls k).plain from hv)]
    show Host.Outcome.next ((pollWalk F (k - 1) (v.polls k)).2.ended (pollWalk F (k - 1) (v.polls k)).1) = _
    rw [pollWalk_polls E]
  have hstep : pollWalk F (m + 1) s = pollWalk F m ((F s).next s) := by rw [pollWalk, if_neg hx]
  have hone : pollWalk F 0 s = (false, (F s).next s) := by rw [pollWalk, if_neg hx]
  refine ⟨((F s).next s).polls 1, ((pollWalk F m ((F s).next s)).2.polls (m + 1)).ended (pollWalk F m ((F s).next s)).1,
    ?_, (E.walked h hw).reg .p (by decide), ?_, ?_⟩
  · rw [hrun 1 h, hone]
    rfl
  · exact hrun (m + 1) (plain_next (F s) h)
  · rw [hrun (m + 1 + 1) h, Nat.add_sub_cancel, hstep, ← ended_polls]
    rfl

/-- A walk of `n + 1` elements that polls before each of them is a walk of one, and else a walk of `n` from there. -/
theorem exec_walkList_split {i : Instr} {element : State → Res Unit} {F : State → ElementEffect} (E : IsElement element F)
    (hexec : ∀ s, exec i s = walkList element s) {s : State} (h : s.plain) (n : Nat) (hx : s.reg .x ≠ 0) :
    exec i (s.polls 0) = .next (s.polls 0)
      ∧ ∃ t, exec i (s.polls 1) = .next t
        ∧ (t.reg .x = 0 → exec i (s.polls (n + 1)) = .next (t.polls (n + 1)))
        ∧ (t.reg .x ≠ 0 → ∃ u, exec i (t.polls n) = .next u ∧ exec i (s.polls (n + 1)) = .next (u.polls (n + 1))) := by
  have hrun {v : State} (k : Nat) (hv : v.plain) :
      exec i (v.polls k) = .next (((walk F k v).ended (decide ((walk F k v).reg .x = 0))).polls k) := by
    rw [hexec, walkList_plain E (show (v.polls k).plain from hv)]
    show Host.Outcome.next ((walk F k (v.polls k)).ended (decide ((walk F k (v.polls k)).reg .x = 0))) = _
    rw [walk_polls E, ← ended_polls]
    rfl
  have hstep (k : Nat) : walk F (k + 1) s = walk F k ((F s).next s) := by rw [walk, if_neg hx]
  refine ⟨?_, _, hrun 1 h, fun hx1 => ?_, fun hx1 => ?_⟩
  · rw [hrun 0 h, walk, decide_eq_false hx]
    rfl
  · rw [hstep 0, walk] at hx1 ⊢
    have hx2 : ((F s).next s).reg .x = 0 := (reg_ended _ _ (by decide)).symm.trans hx1
    rw [hrun (n + 1) h, hstep n, walk_end F n hx2]
    rfl
  · rw [hstep 0, walk] at hx1 ⊢
    have hx2 : ((F s).next s).reg .x ≠ 0 := fun e => hx1 ((reg_ended (c := .x) _ _ (by decide)).trans e)
    rw [decide_eq_false hx2]
    refine ⟨_, hrun n (v := (F s).next s) (plain_next (F s) h), ?_⟩
    rw [hrun (n + 1) h, hstep n]
    rfl

/-- Settles O55. -/
theorem listWalks : Obligations.ListWalks := by
  intro s hw h
  refine ⟨?_, ?_, ?_⟩
  · simp only [List.forall_mem_cons]
    exact ⟨exec_walkList_spec isElement_setpt (fun _ => rfl) h hw _, exec_walkList_spec isElement_clept (fun _ => rfl) h hw _,
      exec_walkList_spec isElement_clepu (fun _ => rfl) h hw _,
      exec_walkPolled_spec isElement_clpt (fun _ => rfl) h hw (by decide),
      exec_walkPolled_spec (isElement_enter _) (fun _ => rfl) h hw (by decide),
      exec_walkPolled_spec (isElement_enter _) (fun _ => rfl) h hw (by decide), List.forall_mem_nil _⟩
  · intro i hi n hn hx
    simp only [List.mem_cons, List.not_mem_nil, or_false] at hi
    obtain rfl | rfl | rfl := hi
    · exact exec_walkPolled_split isElement_clpt (fun _ => rfl) h hw hn hx
    · exact exec_walkPolled_split (isElement_enter _) (fun _ => rfl) h hw hn hx
    · exact exec_walkPolled_split (isElement_enter _) (fun _ => rfl) h hw hn hx
  · intro i hi n hx
    simp only [List.mem_cons, List.not_mem_nil, or_false] at hi
    obtain rfl | rfl | rfl := hi
    · exact exec_walkList_split isElement_setpt (fun _ => rfl) h n hx
    · exact exec_walkList_split isElement_clept (fun _ => rfl) h n hx
    · exact exec_walkList_split isElement_clepu (fun _ => rfl) h n hx

end Sys2Proof.Machine
end

section
/-! PROOF. CNREK and CLNREENT clear the entries of a bitmap (O58). -/

namespace Sys2Proof.Machine

/-- A part for each element of a list that goes on under an invariant folds its effects. -/
theorem mapRes_foldl {α β : Type} {f : α → State → Res β} {g : State → α → State} {I : State → Prop} :
    ∀ {xs : List α}, (∀ x ∈ xs, ∀ u, I u → (∃ y, f x u = .ok y (g u x)) ∧ I (g u x)) →
      ∀ {u : State}, I u → (∃ ys, mapRes f xs u = .ok ys (xs.foldl g u)) ∧ I (xs.foldl g u)
  | [], _, u, hu => ⟨⟨[], rfl⟩, hu⟩
  | x :: xs, hf, u, hu => by
    obtain ⟨⟨y, hy⟩, hg⟩ := hf x List.mem_cons_self u hu
    obtain ⟨⟨ys, hys⟩, hI⟩ := mapRes_foldl (fun x hx => hf x (List.mem_cons_of_mem _ hx)) hg
    refine ⟨⟨y :: ys, ?_⟩, hI⟩
    rw [mapRes, hy, Res.bind_ok, hys]
    rfl

/-- A part that changes nothing for each element of a list. -/
theorem mapRes_still {α β : Type} {f : α → State → Res β} {s : State} :
    ∀ {xs : List α}, (∀ x ∈ xs, ∃ y, f x s = .ok y s) → ∃ ys, mapRes f xs s = .ok ys s
  | [], _ => ⟨[], rfl⟩
  | x :: xs, hf => by
    obtain ⟨y, hy⟩ := hf x List.mem_cons_self
    obtain ⟨ys, hys⟩ := mapRes_still fun x hx => hf x (List.mem_cons_of_mem _ hx)
    refine ⟨y :: ys, ?_⟩
    rw [mapRes, hy, Res.bind_ok, hys]
    rfl

/-! ### Entries and marks -/

/-- The target of entry `k` of the page table that a word of the segment table names (R427). -/
def bitmapEntry (s : State) (w : Word) (k : Nat) : Target := s.wordTarget (bitmapTable w + BitVec.ofNat 16 (2 * k))

/-- Bit `k` of the bitmap at T : X, in the memory of `u` (R427). -/
def bitmapMarked (s u : State) (k : Nat) : Bool :=
  (u.physWord (physAddr (bankReg (s.reg .t)) (s.reg .x + BitVec.ofNat 16 (k / 16)))).getLsbD
    (bitPosition s.cfg.rtBitmapOrder (BitVec.ofNat 4 (k % 16)))

/-- The entries that bitmap word `n` marks cleared. -/
def clearBitmapWord (s : State) (w : Word) (u : State) (n : Nat) : State :=
  (((List.range 16).map fun j => 16 * n + j).filter (bitmapMarked s u)).foldl (fun v k => store (bitmapEntry s w k) 0 v) u

theorem bitmapMarked_eq (s u : State) (k : Nat) : bitmapMarked s u k =
    (u.physWord (physAddr (bankReg (s.reg .t)) (s.reg .x + BitVec.ofNat 16 (k / 16)))).getLsbD
      (match s.cfg.rtBitmapOrder with
        | .fromBit0 => k % 16
        | .fromBit15 => 15 - k % 16) := by
  unfold bitmapMarked bitPosition
  cases s.cfg.rtBitmapOrder <;> simp

/-- The entries of a bitmap word, in the model's words. -/
theorem bitmapEntries_map (s u : State) (w : Word) (n : Nat) :
    (bitmapEntries s.cfg.rtBitmapOrder (bitmapTable w + BitVec.ofNat 16 (32 * n))
        (u.physWord (physAddr (bankReg (s.reg .t)) (s.reg .x + BitVec.ofNat 16 n)))).map s.wordTarget
      = (((List.range 16).map fun j => 16 * n + j).filter (bitmapMarked s u)).map (bitmapEntry s w) := by
  rw [bitmapEntries, List.filter_map, List.map_map, List.map_filterMap, ← List.filterMap_eq_map, List.filterMap_filter]
  refine List.filterMap_congr fun j hj => ?_
  have hj : j < 16 := List.mem_range.mp hj
  have hdiv : (16 * n + j) / 16 = n := by omega
  have hmod : (16 * n + j) % 16 = j := by omega
  have haddr : bitmapTable w + BitVec.ofNat 16 (32 * n) + BitVec.ofNat 16 (2 * j)
      = bitmapTable w + BitVec.ofNat 16 (2 * (16 * n + j)) := by
    rw [BitVec.add_assoc, ← BitVec.ofNat_add]
    congr 2
    omega
  simp only [Function.comp_apply, bitmapMarked, hdiv, hmod, bitmapEntry, haddr]
  split <;> rfl

/-! ### What clearing keeps -/

/-- Words that a walk through the bitmap has left or cleared, within the entries marked at first. -/
structure State.BitmapCleared (s : State) (w : Word) (u : State) : Prop where
  same : ∃ m p, u = { s with mem := m, ptab := p }
  memoryWf : u.memoryWf
  word : ∀ pa, u.physWord pa = s.physWord pa ∨ u.physWord pa = 0
  frame : s.Frame [] [] (((List.range 128).filter (bitmapMarked s s)).map (bitmapEntry s w)) u

section
variable {s u : State} {w : Word}

theorem State.BitmapCleared.plain (h : s.BitmapCleared w u) (hs : s.plain) : u.plain := by
  obtain ⟨m, p, rfl⟩ := h.same
  exact hs

/-- No mark appears. -/
theorem State.BitmapCleared.marked (h : s.BitmapCleared w u) {k : Nat} (hk : bitmapMarked s u k = true) :
    bitmapMarked s s k = true := by
  unfold bitmapMarked at hk ⊢
  rcases h.word (physAddr (bankReg (s.reg .t)) (s.reg .x + BitVec.ofNat 16 (k / 16))) with e | e
  · rwa [e] at hk
  · rw [e] at hk
    simp at hk

theorem State.BitmapCleared.store (h : s.BitmapCleared w u) {k : Nat} (hk : k < 128) (hm : bitmapMarked s s k = true) :
    s.BitmapCleared w (store (bitmapEntry s w k) 0 u) := by
  have hmem : bitmapEntry s w k ∈ ((List.range 128).filter (bitmapMarked s s)).map (bitmapEntry s w) :=
    List.mem_map_of_mem (List.mem_filter.mpr ⟨List.mem_range.mpr hk, hm⟩)
  have htarget : bitmapEntry s w k = u.wordTarget (bitmapTable w + BitVec.ofNat 16 (2 * k)) := by
    obtain ⟨m, p, rfl⟩ := h.same
    rfl
  refine ⟨?_, store_memoryWf h.memoryWf, fun pa => ?_, h.frame.storeIn h.memoryWf 0 hmem⟩
  · obtain ⟨m, p, rfl⟩ := h.same
    cases bitmapEntry s w k <;> exact ⟨_, _, rfl⟩
  · rw [htarget, State.wordTarget, physWord_store h.memoryWf]
    split
    · exact .inr rfl
    · exact h.word pa

theorem State.BitmapCleared.foldl {ks : List Nat} (hks : ∀ k ∈ ks, k < 128 ∧ bitmapMarked s s k = true) :
    ∀ {u : State}, s.BitmapCleared w u → s.BitmapCleared w (ks.foldl (fun v k => Machine.store (bitmapEntry s w k) 0 v) u) := by
  induction ks with
  | nil => exact fun h => h
  | cons k ks ih =>
    intro u h
    have hk := hks k List.mem_cons_self
    exact ih (fun k hk => hks k (List.mem_cons_of_mem _ hk)) (h.store hk.1 hk.2)

theorem State.BitmapCleared.clearWord (h : s.BitmapCleared w u) {n : Nat} (hn : n < 8) :
    s.BitmapCleared w (clearBitmapWord s w u n) := by
  refine State.BitmapCleared.foldl (fun k hk => ?_) h
  rw [List.mem_filter, List.mem_map] at hk
  obtain ⟨⟨j, hj, rfl⟩, hm⟩ := hk
  have := List.mem_range.mp hj
  exact ⟨by omega, h.marked hm⟩

end

/-! ### The instructions -/

section
variable {s : State} (hs : s.plain) {w : Word}
include hs

/-- One bitmap word in the perform pass. -/
theorem clearByWord_perform {u : State} (h : s.BitmapCleared w u) (n : Nat) :
    ∃ y, clearByWord .perform (bitmapTable w) n u = .ok y (clearBitmapWord s w u n) := by
  let es := bitmapEntries s.cfg.rtBitmapOrder (bitmapTable w + BitVec.ofNat 16 (32 * n))
    (u.physWord (physAddr (bankReg (s.reg .t)) (s.reg .x + BitVec.ofNat 16 n)))
  have hsame := h.same
  have hrun : clearByWord .perform (bitmapTable w) n u =
      mapRes (fun e => writeVirtIn .perform s.dataTable e 0) es u := by
    rw [clearByWord, readPhys_plain (h.plain hs), Res.bind_ok]
    obtain ⟨m, p, rfl⟩ := hsame
    rfl
  have hfold : clearBitmapWord s w u n = es.foldl (fun v e => store (s.wordTarget e) 0 v) u := by
    rw [clearBitmapWord, ← List.foldl_map (f := bitmapEntry s w) (g := fun v g => store g 0 v), ← bitmapEntries_map,
      List.foldl_map]
  rw [hrun, hfold]
  refine (mapRes_foldl (I := fun v => ∃ m p, v = { s with mem := m, ptab := p }) (fun e _ v hv => ⟨⟨(), ?_⟩, ?_⟩) hsame).1
  · have hv' : v.plain := by
      obtain ⟨m, p, rfl⟩ := hv
      exact hs
    rw [writeVirtIn_plain hv', storeIn_perform]
    obtain ⟨m, p, rfl⟩ := hv
    rfl
  · obtain ⟨m, p, rfl⟩ := hv
    cases s.wordTarget e <;> exact ⟨_, _, rfl⟩

/-- One bitmap word in the check pass changes nothing. -/
theorem clearByWord_check (n : Nat) : ∃ y, clearByWord .check (bitmapTable w) n s = .ok y s := by
  have hstill (e : Word) : writeVirtIn .check s.dataTable e 0 s = .ok () s := by
    rw [writeVirtIn_plain hs, storeIn_check]
  rw [clearByWord, readPhys_plain hs, Res.bind_ok]
  exact mapRes_still fun e _ => ⟨(), hstill e⟩

/-- All eight bitmap words. -/
theorem clearByWords_plain (hw : s.memoryWf) :
    (∃ ys, inOrder (fun pass => mapRes (clearByWord pass (bitmapTable w)) (List.range 8)) s
        = .ok ys ((List.range 8).foldl (clearBitmapWord s w) s))
      ∧ s.BitmapCleared w ((List.range 8).foldl (clearBitmapWord s w) s) := by
  have start : s.BitmapCleared w s := ⟨⟨s.mem, s.ptab, rfl⟩, hw, fun _ => .inl rfl, .refl ..⟩
  obtain ⟨zs, hcheck⟩ := mapRes_still (xs := List.range 8) fun n _ => clearByWord_check hs (w := w) n
  obtain ⟨⟨ys, hperform⟩, hcleared⟩ := mapRes_foldl (g := clearBitmapWord s w) (I := s.BitmapCleared w) (xs := List.range 8)
    (f := clearByWord .perform (bitmapTable w))
    (fun n hn v hv => ⟨clearByWord_perform hs hv n, hv.clearWord (List.mem_range.mp hn)⟩) start
  exact ⟨⟨ys, inOrder_of_ok hcheck hperform⟩, hcleared⟩

end

/-- The end of CNREK, where A may be loaded with the word of the segment table (log 36). -/
def State.afterBitmap (s u : State) (w : Word) : State := (if s.cfg.cnrekLoadsA then u.setReg .a w else u).advance

theorem afterBitmap_spec {s u : State} {w : Word} {gs : List Target} (hsame : ∃ m p, u = { s with mem := m, ptab := p })
    (hf : s.Frame [] [] gs u) :
    let t := s.afterBitmap u w
    t.mem = u.mem ∧ t.ptab = u.ptab ∧ t.reg .a = (if s.cfg.cnrekLoadsA then w else s.reg .a) ∧ t.reg .p = s.reg .p + 1
      ∧ s.Frame [.a, .p] [] gs t := by
  have hf' : s.Frame [.a, .p] [] gs u := hf.weaken (List.nil_subset _) (List.Subset.refl _) (List.Subset.refl _)
  obtain ⟨m, p, rfl⟩ := hsame
  unfold State.afterBitmap
  cases s.cfg.cnrekLoadsA with
  | true => exact ⟨rfl, rfl, by simp [State.reg_advance_eq], by simp [State.reg_setReg]; rfl,
      (hf'.setRegIn _ (by simp)).advanceIn (by simp)⟩
  | false => exact ⟨rfl, rfl, State.reg_advance _ (by decide), State.reg_advance_p _, hf'.advanceIn (by simp)⟩

/-- CNREK and CLNREENT, with the memory that they leave. -/
theorem clearByBitmap_plain {s : State} (hs : s.plain) (hw : s.memoryWf) :
    let w := s.physWord (physAddr s.stbnk (s.reg .a + 2))
    let cleared := if w = 0 then s else (List.range 8).foldl (clearBitmapWord s w) s
    let entries := if w = 0 then [] else (List.range 128).filter (bitmapMarked s s)
    clearByBitmap s = .next (s.afterBitmap cleared w) ∧ (∃ m p, cleared = { s with mem := m, ptab := p })
      ∧ s.Frame [] [] (entries.map (bitmapEntry s w)) cleared := by
  intro w cleared entries
  have hrun : clearByBitmap s = if w = 0 then .next (s.afterBitmap s w) else
      (inOrder (fun pass => mapRes (clearByWord pass (bitmapTable w)) (List.range 8)) s).andThen fun _ u =>
        .next (if u.cfg.cnrekLoadsA then u.setReg .a w else u).advance := by
    rw [clearByBitmap, readPhys_plain hs, Res.andThen_ok]
    rfl
  by_cases h0 : w = 0
  · have hc : cleared = s := if_pos h0
    have he : entries = [] := if_pos h0
    rw [hc, he, hrun, if_pos h0]
    exact ⟨rfl, ⟨s.mem, s.ptab, rfl⟩, .refl ..⟩
  · have hc : cleared = (List.range 8).foldl (clearBitmapWord s w) s := if_neg h0
    have he : entries = (List.range 128).filter (bitmapMarked s s) := if_neg h0
    obtain ⟨⟨ys, hys⟩, hcleared⟩ := clearByWords_plain hs (w := w) hw
    rw [← hc] at hys hcleared
    rw [he, hrun, if_neg h0, hys, Res.andThen_ok]
    refine ⟨?_, hcleared.same, hcleared.frame⟩
    obtain ⟨m, p, hm⟩ := hcleared.same
    rw [hm]
    rfl

end Sys2Proof.Machine

namespace Sys2Proof
open Machine

/-- Settles O58. -/
theorem clearByBitmap : Obligations.ClearByBitmap := by
  intro s hw hs w entry marked clearWord cleared entries
  have hmarked (u : State) : marked u = bitmapMarked s u := funext fun k => (bitmapMarked_eq s u k).symm
  obtain ⟨hrun, hsame, hframe⟩ := clearByBitmap_plain hs hw
  have hclear : clearWord = clearBitmapWord s w := by
    funext u n
    show (((List.range 16).map fun j => 16 * n + j).filter (marked u)).foldl _ u = _
    rw [hmarked]
    rfl
  have hcleared : cleared = if w = 0 then s else (List.range 8).foldl (clearBitmapWord s w) s := by rw [← hclear]
  have hentries : entries = if w = 0 then [] else (List.range 128).filter (bitmapMarked s s) := by rw [← hmarked]
  have hexec : ∀ i ∈ [Instr.cnrek, .clnreent], exec i s = Machine.clearByBitmap s := by
    simp only [List.forall_mem_cons]
    exact ⟨privileged_of_not_user _ (userMode_plain hs), privileged_of_not_user _ (userMode_plain hs), List.forall_mem_nil _⟩
  intro i hi
  rw [hcleared, hentries]
  exact ⟨_, (hexec i hi).trans hrun, afterBitmap_spec hsame hframe⟩

end Sys2Proof
end

section
/-! PROOF. Bytes stored one after the other with paging off, and what the byte block instructions leave there (O38, first
halves). -/

namespace Sys2Proof.Machine

/-! ### One place after the other -/

section
variable {P V : Type} {M : Nat → P → V} {dst : Nat → P} {C : Nat → V} {n : Nat}
  (hat : ∀ k < n, M (k + 1) (dst k) = C k) (hother : ∀ k < n, ∀ p, p ≠ dst k → M (k + 1) p = M k p)
include hother

/-- A place that is not written stays. -/
theorem unwritten_eq {m : Nat} (hm : m ≤ n) {p : P} (hp : ∀ j < m, p ≠ dst j) : M m p = M 0 p := by
  induction m with
  | zero => rfl
  | succ m ih => rw [hother m (by omega) p (hp m (by omega)), ih (by omega) fun j hj => hp j (by omega)]

include hat

/-- A place that is written once keeps what it received. -/
theorem written_eq (hd : ∀ i < n, ∀ j < n, dst i = dst j → i = j) {k m : Nat} (hk : k < m) (hm : m ≤ n) :
    M m (dst k) = C k := by
  induction m with
  | zero => omega
  | succ m ih =>
    rcases Nat.lt_succ_iff_lt_or_eq.mp hk with h | rfl
    · rw [hother m (by omega) _ fun e => by have := hd k (by omega) m (by omega) e; omega, ih h (by omega)]
    · exact hat k (by omega)

end

/-- A copy in ascending order, each place read when its turn comes: a place written before is read as it was left. -/
theorem copied_eq {P V : Type} {M : Nat → P → V} {src dst : Nat → P} {n : Nat}
    (hat : ∀ k < n, M (k + 1) (dst k) = M k (src k)) (hother : ∀ k < n, ∀ p, p ≠ dst k → M (k + 1) p = M k p)
    (hd : ∀ i < n, ∀ j < n, dst i = dst j → i = j) {k : Nat} (hk : k < n) [Decidable (∃ j < k, src k = dst j)] :
    M n (dst k) = if ∃ j < k, src k = dst j then M n (src k) else M 0 (src k) := by
  rw [written_eq hat hother hd hk (Nat.le_refl n)]
  split
  · next h =>
    obtain ⟨j, hj, hsrc⟩ := h
    rw [hsrc, written_eq hat hother hd hj (by omega), written_eq hat hother hd (by omega) (Nat.le_refl n)]
  · next h => exact unwritten_eq hother (by omega) fun j hj e => h ⟨j, hj, e⟩

/-! ### Bytes of memory -/

/-- A byte stored with paging off, the other byte of its word as it was. -/
def State.storeByte (s : State) (p : BytePlace) (b : Byte) : State :=
  store (s.wordTarget p.addr) (putByte p.odd (s.word p.addr) b) s

theorem byteOf_putByte (odd odd' : Bool) (w : Word) (b : Byte) :
    byteOf odd (putByte odd' w b) = if odd = odd' then b else byteOf odd w := by
  cases odd <;> cases odd'
  · exact BitVec.extractLsb'_append_eq_left
  · exact BitVec.extractLsb'_append_eq_left
  · exact BitVec.extractLsb'_append_eq_right
  · exact BitVec.extractLsb'_append_eq_right

/-- What a stored byte leaves at every place. -/
theorem byte_storeByte {s : State} (hw : s.memoryWf) (p q : BytePlace) (b : Byte) :
    (s.storeByte p b).byte q = if q = p then b else s.byte q := by
  obtain ⟨a, odd⟩ := p
  obtain ⟨a', odd'⟩ := q
  rw [State.byte, State.storeByte, word_store hw]
  by_cases ha : a' = a
  · subst ha
    simp only [if_true, byteOf_putByte, BytePlace.mk.injEq, true_and, State.byte]
  · rw [if_neg ha, if_neg (fun e => ha (congrArg BytePlace.addr e))]
    rfl

theorem byte_storeByte_same {s : State} (hw : s.memoryWf) (p : BytePlace) (b : Byte) : (s.storeByte p b).byte p = b := by
  rw [byte_storeByte hw, if_pos rfl]

theorem byte_storeByte_ne {s : State} (hw : s.memoryWf) {p q : BytePlace} (b : Byte) (h : q ≠ p) :
    (s.storeByte p b).byte q = s.byte q := by
  rw [byte_storeByte hw, if_neg h]

/-! ### Stores with paging off -/

/-- A state reached by stores within some targets. -/
structure State.Stored (s : State) (gs : List Target) (u : State) : Prop where
  same : ∃ m p, u = { s with mem := m, ptab := p }
  memoryWf : u.memoryWf
  frame : s.Frame [] [] gs u

section
variable {s u : State} {gs : List Target}

theorem State.Stored.refl (hw : s.memoryWf) : s.Stored gs s := ⟨⟨s.mem, s.ptab, rfl⟩, hw, .refl ..⟩

theorem State.Stored.plain (h : s.Stored gs u) (hs : s.plain) : u.plain := by
  obtain ⟨m, p, rfl⟩ := h.same
  exact hs

theorem State.Stored.wordTarget (h : s.Stored gs u) (a : Word) : u.wordTarget a = s.wordTarget a := by
  obtain ⟨m, p, rfl⟩ := h.same
  rfl

theorem State.Stored.reg (h : s.Stored gs u) (c : Reg) : u.reg c = s.reg c := by
  obtain ⟨m, p, rfl⟩ := h.same
  rfl

theorem State.Stored.flag (h : s.Stored gs u) (f : Flag) : u.flag f = s.flag f := by
  obtain ⟨m, p, rfl⟩ := h.same
  rfl

theorem State.Stored.store (h : s.Stored gs u) {g : Target} (v : Word) (hg : g ∈ gs) : s.Stored gs (store g v u) := by
  refine ⟨?_, store_memoryWf h.memoryWf, h.frame.storeIn h.memoryWf v hg⟩
  obtain ⟨m, p, rfl⟩ := h.same
  cases g <;> exact ⟨_, _, rfl⟩

theorem State.Stored.storeByte (h : s.Stored gs u) {p : BytePlace} (b : Byte) (hp : s.wordTarget p.addr ∈ gs) :
    s.Stored gs (u.storeByte p b) := h.store _ (h.wordTarget p.addr ▸ hp)

/-- The frame of an instruction that stores and then loads registers. -/
theorem State.Stored.frameIn (h : s.Stored gs u) (rs : List Reg) (fs : List Flag) : s.Frame rs fs gs u :=
  h.frame.weaken (List.nil_subset _) (List.nil_subset _) (List.Subset.refl _)

end

/-! ### Byte accesses -/

section
variable {s : State} (h : s.plain)
include h

theorem readByte_plain (tbl : Table) (p : BytePlace) : readByte tbl p s = .ok (s.byte p) s := by
  rw [readByte, readVirt_plain h, Res.bind_ok]
  rfl

theorem writeByteIn_perform (tbl : Table) (p : BytePlace) (b : Byte) :
    ∃ w, writeByteIn .perform tbl p b s = .ok w (s.storeByte p b) := ⟨_, modifyIn_plain h ..⟩

theorem writeByteIn_check (tbl : Table) (p : BytePlace) (b : Byte) : ∃ w, writeByteIn .check tbl p b s = .ok w s :=
  ⟨_, modifyIn_plain h ..⟩

theorem fillByteIn_plain (pass : Pass) (tbl : Table) (p : BytePlace) (b : Byte) : fillByteIn pass tbl b p s =
    .ok () (storeIn pass (s.wordTarget p.addr) (putByte p.odd (s.word p.addr) b) s) := by
  rw [fillByteIn, resolve_plain h, Res.bind_ok, load, peek_of_ne_absent (wordTarget_ne_absent s p.addr), Res.bind_ok]
  rfl

end

theorem mapRes_map {α β γ : Type} (f : β → State → Res γ) (h : α → β) : ∀ (xs : List α) (s : State),
    mapRes f (xs.map h) s = mapRes (fun x => f (h x)) xs s
  | [], _ => rfl
  | x :: xs, s => by
    rw [List.map_cons, mapRes, mapRes]
    exact Res.bind_congr fun _ u _ => by rw [mapRes_map f h xs u]

/-! ### A run of byte stores -/

/-- The state after `n` bytes, the `k`th of which may depend on the state before it. -/
def storeBytes (dst : Nat → BytePlace) (b : Nat → State → Byte) (s : State) (n : Nat) : State :=
  (List.range n).foldl (fun u k => u.storeByte (dst k) (b k u)) s

theorem storeBytes_succ (dst : Nat → BytePlace) (b : Nat → State → Byte) (s : State) (n : Nat) :
    storeBytes dst b s (n + 1) = (storeBytes dst b s n).storeByte (dst n) (b n (storeBytes dst b s n)) := by
  rw [storeBytes, List.range_succ, List.foldl_append]
  rfl

section
variable {s : State} (hw : s.memoryWf) (dst : Nat → BytePlace) (b : Nat → State → Byte)
include hw

theorem stored_storeBytes {n m : Nat} (hm : m ≤ n) :
    s.Stored ((List.range n).map fun k => s.wordTarget (dst k).addr) (storeBytes dst b s m) := by
  induction m with
  | zero => exact .refl hw
  | succ m ih =>
    rw [storeBytes_succ]
    exact (ih (by omega)).storeByte _ (List.mem_map_of_mem (List.mem_range.mpr (by omega)))

theorem memoryWf_storeBytes (n : Nat) : (storeBytes dst b s n).memoryWf := (stored_storeBytes hw dst b (Nat.le_refl n)).memoryWf

theorem byte_storeBytes_at (k : Nat) : (storeBytes dst b s (k + 1)).byte (dst k) = b k (storeBytes dst b s k) := by
  rw [storeBytes_succ, byte_storeByte_same (memoryWf_storeBytes hw dst b k)]

theorem byte_storeBytes_other (k : Nat) (p : BytePlace) (hp : p ≠ dst k) :
    (storeBytes dst b s (k + 1)).byte p = (storeBytes dst b s k).byte p := by
  rw [storeBytes_succ, byte_storeByte_ne (memoryWf_storeBytes hw dst b k) _ hp]

/-- A place outside the field stays. -/
theorem byte_storeBytes_outside {n : Nat} {p : BytePlace} (hp : ∀ k < n, p ≠ dst k) :
    (storeBytes dst b s n).byte p = s.byte p :=
  unwritten_eq (M := fun k => (storeBytes dst b s k).byte) (dst := dst)
    (fun k _ p hp => byte_storeBytes_other hw dst b k p hp) (Nat.le_refl n) hp

/-- A place of the field holds its byte. -/
theorem byte_storeBytes_inside {n k : Nat} (hd : ∀ i < n, ∀ j < n, dst i = dst j → i = j) (hk : k < n) :
    (storeBytes dst b s n).byte (dst k) = b k (storeBytes dst b s k) :=
  written_eq (M := fun k => (storeBytes dst b s k).byte) (C := fun k => b k (storeBytes dst b s k))
    (fun k _ => byte_storeBytes_at hw dst b k) (fun k _ p hp => byte_storeBytes_other hw dst b k p hp) hd hk (Nat.le_refl n)

end

/-- The bytes of a field lie at different places. -/
theorem fieldByte_inj {d1 : Word} {right : Bool} {n : Nat} (hn : n ≤ 65536) :
    ∀ i < n, ∀ j < n, fieldByte d1 right i = fieldByte d1 right j → i = j := by
  intro i hi j hj h
  have hr : right.toNat < 2 := Bool.toNat_lt right
  rw [fieldByte, fieldByte, BytePlace.mk.injEq] at h
  obtain ⟨haddr, hodd⟩ := h
  have ha := congrArg BitVec.toNat (add_left_cancel haddr)
  simp only [BitVec.toNat_ofNat] at ha
  rw [Bool.eq_iff_iff, beq_iff_eq, beq_iff_eq] at hodd
  omega

/-! ### Descriptors -/

/-- The fields of a descriptor that has moved on (R324, R325). -/
theorem descriptorWord2_fields (d2 : Word) (n length : Nat) :
    let w := descriptorWord2 d2 n length
    w.getLsbD 15 = decide (((d2.getLsbD 15).toNat + n) % 2 = 1) ∧ w.extractLsb' 12 3 = d2.extractLsb' 12 3
      ∧ w.extractLsb' 0 12 = BitVec.ofNat 12 length := by
  have hw : (descriptorWord2 d2 n length).toNat = ((d2.getLsbD 15).toNat + n) % 2 * 32768
      + (d2.extractLsb' 12 3).toNat * 4096 + length % 4096 := by
    have : (d2.extractLsb' 12 3).toNat < 8 := (d2.extractLsb' 12 3).isLt
    refine (toNat_append_add _ _).trans ?_
    simp only [toNat_append_add, BitVec.toNat_ofNat]
    omega
  have h3 : (d2.extractLsb' 12 3).toNat < 8 := (d2.extractLsb' 12 3).isLt
  refine ⟨?_, BitVec.eq_of_toNat_eq ?_, BitVec.eq_of_toNat_eq ?_⟩
  · rw [BitVec.getLsbD, hw, Nat.testBit_eq_decide_div_mod_eq, decide_eq_decide]
    omega
  · rw [BitVec.extractLsb'_toNat, hw, Nat.shiftRight_eq_div_pow]
    omega
  · rw [BitVec.extractLsb'_toNat, hw, BitVec.toNat_ofNat]
    omega

/-- The registers after MOVB and MOVBF (R325). -/
theorem reg_afterByteMove (s : State) (n : Nat) :
    (s.afterByteMove n).reg .a = descriptorWord1 (s.reg .a) (s.reg .d) n
      ∧ (s.afterByteMove n).reg .d = descriptorWord2 (s.reg .d) n 0
      ∧ (s.afterByteMove n).reg .x = descriptorWord1 (s.reg .x) (s.reg .t) n
      ∧ (s.afterByteMove n).reg .t = descriptorWord2 (s.reg .t) n n
      ∧ (s.afterByteMove n).reg .p = s.reg .p := by
  simp [State.afterByteMove, State.reg_setReg]

/-! ### The instructions with paging off -/

/-- The accesses of BFILL. -/
theorem fillBytes_plain {s : State} (h : s.plain) (hw : s.memoryWf) (tbl : Table) (b : Byte) (dst : Nat → BytePlace) (n : Nat) :
    ∃ ys, inOrder (fun pass => mapRes (fillByteIn pass tbl b) ((List.range n).map dst)) s
      = .ok ys (storeBytes dst (fun _ _ => b) s n) := by
  obtain ⟨zs, hcheck⟩ := mapRes_still (xs := (List.range n).map dst) (f := fillByteIn .check tbl b) (s := s)
    fun p _ => ⟨(), fillByteIn_plain h .check tbl p b⟩
  obtain ⟨⟨ys, hperform⟩, -⟩ := mapRes_foldl (xs := List.range n) (f := fun k => fillByteIn .perform tbl b (dst k))
    (g := fun u k => u.storeByte (dst k) b)
    (I := s.Stored ((List.range n).map fun k => s.wordTarget (dst k).addr))
    (fun k hk u hu => ⟨⟨(), fillByteIn_plain (hu.plain h) ..⟩, hu.storeByte b (List.mem_map_of_mem hk)⟩) (.refl hw)
  exact ⟨ys, inOrder_of_ok hcheck ((mapRes_map ..).trans hperform)⟩

theorem exec_bfill_plain {s : State} (h : s.plain) (hw : s.memoryWf) (h13 : (s.reg .t).getLsbD 13 = false) :
    let n := ((s.reg .t).extractLsb' 0 12).toNat
    let dst := fieldByte (s.reg .x) ((s.reg .t).getLsbD 15)
    let u := storeBytes dst (fun _ _ => oddByte (s.reg .a)) s n
    exec .bfill s = .next ((u.setReg .x (descriptorWord1 (s.reg .x) (s.reg .t) n)).setReg .t
      (descriptorWord2 (s.reg .t) n 0)).advance := by
  intro n dst u
  obtain ⟨ys, hys⟩ := fillBytes_plain h hw s.dataTable (oddByte (s.reg .a)) dst n
  show (if (s.reg .t).getLsbD 13 then _ else _) = _
  rw [h13, if_neg Bool.false_ne_true]
  exact congrArg (Res.andThen · _) hys

theorem mapRes_readByte_plain {s : State} (h : s.plain) (tbl : Table) :
    ∀ ps : List BytePlace, mapRes (readByte tbl) ps s = .ok (ps.map s.byte) s
  | [] => rfl
  | p :: ps => by
    rw [mapRes, readByte_plain h, Res.bind_ok, mapRes_readByte_plain h tbl ps]
    rfl

/-- The accesses of MOVB. -/
theorem moveAll_plain {s : State} (h : s.plain) (hw : s.memoryWf) (src dst : ByteField) (n : Nat) :
    ∃ ys, inOrder (moveAll src dst n) s = .ok ys
      (storeBytes (fieldByte dst.start dst.right) (fun k _ => s.byte (fieldByte src.start src.right k)) s n) := by
  let q (k : Nat) := (fieldByte dst.start dst.right k, s.byte (fieldByte src.start src.right k))
  have hmove (pass : Pass) : moveAll src dst n pass s =
      mapRes (fun k => writeByteIn pass dst.tbl (q k).1 (q k).2) (List.range n) s := by
    have hzip : (dst.places n).zip ((src.places n).map s.byte) = (List.range n).map q := by
      rw [ByteField.places, ByteField.places, List.map_map]
      exact List.zip_map'
    rw [moveAll, mapRes_readByte_plain h, Res.bind_ok, hzip, mapRes_map]
  obtain ⟨zs, hcheck⟩ := mapRes_still (xs := List.range n)
    (f := fun k => writeByteIn .check dst.tbl (q k).1 (q k).2) (s := s) fun k _ => writeByteIn_check h ..
  obtain ⟨⟨ys, hperform⟩, -⟩ := mapRes_foldl (xs := List.range n)
    (f := fun k => writeByteIn .perform dst.tbl (q k).1 (q k).2) (g := fun u k => u.storeByte (q k).1 (q k).2)
    (I := s.Stored ((List.range n).map fun k => s.wordTarget (q k).1.addr))
    (fun k hk u hu => ⟨writeByteIn_perform (hu.plain h) .., hu.storeByte _ (List.mem_map_of_mem hk)⟩) (.refl hw)
  exact ⟨ys, inOrder_of_ok ((hmove _).trans hcheck) ((hmove _).trans hperform)⟩

/-- The accesses of MOVBF. -/
theorem moveByte_plain {s : State} (h : s.plain) (hw : s.memoryWf) (src dst : ByteField) (n : Nat) :
    ∃ ys, inOrder (fun pass => mapRes (moveByte src.tbl dst.tbl pass) ((src.places n).zip (dst.places n))) s = .ok ys
      (storeBytes (fieldByte dst.start dst.right) (fun k u => u.byte (fieldByte src.start src.right k)) s n) := by
  let q (k : Nat) := (fieldByte src.start src.right k, fieldByte dst.start dst.right k)
  have hzip : (src.places n).zip (dst.places n) = (List.range n).map q := List.zip_map'
  have hmove {u : State} (hu : u.plain) (pass : Pass) (k : Nat) :
      moveByte src.tbl dst.tbl pass (q k) u = writeByteIn pass dst.tbl (q k).2 (u.byte (q k).1) u := by
    rw [moveByte, readByte_plain hu, Res.bind_ok]
  obtain ⟨zs, hcheck⟩ := mapRes_still (xs := List.range n) (f := fun k => moveByte src.tbl dst.tbl .check (q k)) (s := s)
    fun k _ => by rw [hmove h]; exact writeByteIn_check h ..
  obtain ⟨⟨ys, hperform⟩, -⟩ := mapRes_foldl (xs := List.range n) (f := fun k => moveByte src.tbl dst.tbl .perform (q k))
    (g := fun u k => u.storeByte (q k).2 (u.byte (q k).1))
    (I := s.Stored ((List.range n).map fun k => s.wordTarget (q k).2.addr))
    (fun k hk u hu => ⟨by rw [hmove (hu.plain h)]; exact writeByteIn_perform (hu.plain h) ..,
      hu.storeByte _ (List.mem_map_of_mem hk)⟩) (.refl hw)
  rw [hzip]
  exact ⟨ys, inOrder_of_ok ((mapRes_map ..).trans hcheck) ((mapRes_map ..).trans hperform)⟩

/-- What the registers are after a move of bytes, and what stays. -/
theorem afterByteMove_spec {s u : State} {n : Nat} {gs : List Target} (hu : s.Stored gs u) :
    let src := fieldByte (s.reg .a) ((s.reg .d).getLsbD 15)
    let dst := fieldByte (s.reg .x) ((s.reg .t).getLsbD 15)
    let t := (u.afterByteMove n).advance
    t.reg .a = (src n).addr ∧ (t.reg .d).getLsbD 15 = (src n).odd
      ∧ (t.reg .d).extractLsb' 12 3 = (s.reg .d).extractLsb' 12 3 ∧ (t.reg .d).extractLsb' 0 12 = 0
      ∧ t.reg .x = (dst n).addr ∧ (t.reg .t).getLsbD 15 = (dst n).odd
      ∧ (t.reg .t).extractLsb' 12 3 = (s.reg .t).extractLsb' 12 3 ∧ (t.reg .t).extractLsb' 0 12 = BitVec.ofNat 12 n
      ∧ t.reg .p = s.reg .p + 1 ∧ s.Frame [.a, .d, .x, .t, .p] [] gs t := by
  obtain ⟨ha, hd, hx, ht, hp⟩ := reg_afterByteMove u n
  simp only [hu.reg] at ha hd hx ht hp
  have odd (m : Nat) : decide (m % 2 = 1) = (m % 2 == 1) := rfl
  obtain ⟨hd15, hd12, hd0⟩ := descriptorWord2_fields (s.reg .d) n 0
  obtain ⟨ht15, ht12, ht0⟩ := descriptorWord2_fields (s.reg .t) n n
  intro src dst t
  have reg {c : Reg} (hc : c ≠ .p) : t.reg c = (u.afterByteMove n).reg c := State.reg_advance _ hc
  rw [reg (c := .a) (by decide), reg (c := .d) (by decide), reg (c := .x) (by decide), reg (c := .t) (by decide), ha, hd, hx, ht]
  refine ⟨rfl, hd15, hd12, hd0, rfl, ht15, ht12, ht0, ?_, ?_⟩
  · rw [State.reg_advance_p, hp]
  · exact (((((hu.frameIn _ _).setRegIn _ (by simp)).setRegIn _ (by simp)).setRegIn _ (by simp)).setRegIn _
      (by simp)).advanceIn (by simp)

theorem byte_afterByteMove (u : State) (n : Nat) (p : BytePlace) : (u.afterByteMove n).advance.byte p = u.byte p := by
  simp [State.byte, State.afterByteMove]

theorem descriptorBit13_eq_false {s : State} (hd : (s.reg .d).getLsbD 13 = false) (ht : (s.reg .t).getLsbD 13 = false) :
    descriptorBit13 s = false := by rw [descriptorBit13, hd, ht, Bool.or_false]

section
variable {s : State} (h : s.plain) (hw : s.memoryWf) (hd : (s.reg .d).getLsbD 13 = false)
  (ht : (s.reg .t).getLsbD 13 = false)
include h hw hd ht

theorem exec_movb_plain : exec .movb s = .next ((storeBytes (fieldByte (s.reg .x) ((s.reg .t).getLsbD 15))
    (fun k _ => s.byte (fieldByte (s.reg .a) ((s.reg .d).getLsbD 15) k)) s (moveCount s)).afterByteMove (moveCount s)).advance := by
  obtain ⟨ys, hys⟩ := moveAll_plain h hw (byteSource s) (byteDest s) (moveCount s)
  show (if descriptorBit13 s then _ else _) = _
  rw [descriptorBit13_eq_false hd ht, if_neg Bool.false_ne_true, hys]
  rfl

theorem exec_movbf_plain : exec .movbf s = .next ((storeBytes (fieldByte (s.reg .x) ((s.reg .t).getLsbD 15))
    (fun k u => u.byte (fieldByte (s.reg .a) ((s.reg .d).getLsbD 15) k)) s (moveCount s)).afterByteMove (moveCount s)).advance := by
  obtain ⟨ys, hys⟩ := moveByte_plain h hw (byteSource s) (byteDest s) (moveCount s)
  show (if descriptorBit13 s then _ else _) = _
  rw [descriptorBit13_eq_false hd ht, if_neg Bool.false_ne_true]
  exact congrArg (Res.andThen · _) hys

end

end Sys2Proof.Machine
end

section
/-! PROOF. The byte block instructions go to their end or leave every register and word (O38). -/

namespace Sys2Proof.Machine

/-! ### Accesses without their values -/

/-- A part that has the same accesses, whatever it gives. -/
def Res.effect {α : Type} (r : Res α) : Res Unit := r.bind fun _ u => .ok () u

theorem Res.effect_bind {α β : Type} (r : Res α) (k : α → State → Res β) :
    (r.bind k).effect = r.bind fun a u => (k a u).effect := Res.bind_assoc ..

theorem Res.stop_of_effect {α β : Type} {r : Res α} {r' : Res β} (h : r.effect = r'.effect) {o : Out} (hr : r = .stop o) :
    r' = .stop o := by
  subst hr
  cases r' with
  | ok a u => cases h
  | stop p => exact Res.stop.inj h ▸ rfl

/-- Parts of the same accesses, one after the other. -/
theorem Res.effect_bind_congr {α α' β β' : Type} {r : Res α} {r' : Res α'} {k : α → State → Res β} {k' : α' → State → Res β'}
    (hr : r.effect = r'.effect) (hk : ∀ a b u, r = .ok a u → r' = .ok b u → (k a u).effect = (k' b u).effect) :
    (r.bind k).effect = (r'.bind k').effect := by
  cases r with
  | ok a u =>
    cases r' with
    | ok b v =>
      cases hr
      exact hk a b u rfl rfl
    | stop o => cases hr
  | stop o =>
    cases r' with
    | ok b v => cases hr
    | stop p => exact hr

theorem effect_mapRes {α β γ : Type} {f : α → State → Res β} {g : α → State → Res γ}
    (h : ∀ x u, (f x u).effect = (g x u).effect) : ∀ (xs : List α) (u : State), (mapRes f xs u).effect = (mapRes g xs u).effect
  | [], _ => rfl
  | x :: xs, u => Res.effect_bind_congr (h x u) fun _ _ v _ _ =>
      Res.effect_bind_congr (effect_mapRes h xs v) fun _ _ _ _ _ => rfl

/-! ### Registers kept -/

/-- A part that goes on with every register as it was. -/
def Res.KeepsRegs {α : Type} (r : Res α) (s : State) : Prop := ∀ a u, r = .ok a u → ∀ c, u.reg c = s.reg c

theorem Res.keepsRegs_of_accessed {α : Type} {r : Res α} {s : State} (h : ∀ a u, r = .ok a u → s.Accessed u) :
    r.KeepsRegs s := fun a u e => (h a u e).reg

theorem Res.keepsRegs_ok {α : Type} (a : α) {s t : State} (h : ∀ c, t.reg c = s.reg c) : (Res.ok a t).KeepsRegs s := by
  intro b u e
  cases e
  exact h

theorem Res.keepsRegs_bind {α β : Type} {r : Res α} {k : α → State → Res β} {s : State} (h : r.KeepsRegs s)
    (hk : ∀ a u, (k a u).KeepsRegs u) : (r.bind k).KeepsRegs s := by
  intro b w e c
  obtain ⟨a, u, h1, h2⟩ := Res.bind_eq_ok e
  rw [hk a u b w h2, h a u h1]

theorem mapRes_keepsRegs {α β : Type} {f : α → State → Res β} (hf : ∀ x u, (f x u).KeepsRegs u) :
    ∀ (xs : List α) (s : State), (mapRes f xs s).KeepsRegs s
  | [], _ => Res.keepsRegs_ok _ fun _ => rfl
  | x :: xs, s => Res.keepsRegs_bind (hf x s) fun _ u => Res.keepsRegs_bind (mapRes_keepsRegs hf xs u) fun _ _ =>
      Res.keepsRegs_ok _ fun _ => rfl

theorem reg_storeIn (pass : Pass) (g : Target) (v : Word) (s : State) (c : Reg) : (storeIn pass g v s).reg c = s.reg c := by
  cases pass with
  | check => rfl
  | perform => exact reg_store g v s c

theorem resolve_keepsRegs (kind : AccessKind) (tbl : Table) (a : Word) (s : State) : (resolve kind tbl a s).KeepsRegs s :=
  Res.keepsRegs_of_accessed fun _ _ => resolve_accessed

theorem load_keepsRegs (g : Target) (s : State) : (load g s).KeepsRegs s := Res.keepsRegs_of_accessed fun _ _ => load_accessed

/-! ### Parts that go to their end or leave everything -/

/-- What an instruction needs of its part in order: refused by its checks it has changed nothing, and it keeps registers. -/
structure Atomic {α : Type} (part : Pass → State → Res α) : Prop where
  check : ∀ s, (part .check s).Refuses s
  accessed : ∀ s a u, part .check s = .ok a u → s.Accessed u
  perform : ∀ s, (part .perform s).Raises s
  regs : ∀ s, (part .perform s).KeepsRegs s

theorem Atomic.refuses {α : Type} {part : Pass → State → Res α} (h : Atomic part) (s : State) : (inOrder part s).Refuses s :=
  inOrder_refuses (h.check s) (h.accessed s) (h.perform s)

/-- An instruction that runs such a part. -/
theorem Atomic.exec_cases {α : Type} {part : Pass → State → Res α} (h : Atomic part) {i : Instr} {s : State} {g : State → State}
    (hexec : exec i s = (inOrder part s).andThen fun _ u => .next (g u).advance) (hg : ∀ u, (g u).reg .p = u.reg .p) :
    (∃ t, exec i s = .next t ∧ t.reg .p = s.reg .p + 1) ∨ s.Refused (exec i s) := by
  cases hr : inOrder part s with
  | ok a u =>
    refine .inl ⟨(g u).advance, by rw [hexec, hr, Res.andThen_ok], ?_⟩
    rw [State.reg_advance_p, hg, h.regs s a u (inOrder_ok hr).2]
  | stop o =>
    rw [hexec, hr, Res.andThen_stop]
    exact .inr ((h.refuses s).stop o hr)

/-- Its accesses end it, if its checks make them. -/
theorem Atomic.ends {α β : Type} {part : Pass → State → Res α} (h : Atomic part) {accesses : Res β} {i : Instr} {s : State}
    {k : α → State → Out} (hexec : exec i s = (inOrder part s).andThen k) (he : accesses.effect = (part .check s).effect) :
    accesses.Ends i s := by
  intro o ho
  have hstop := Res.stop_of_effect he ho
  refine ⟨?_, (h.check s).stop o hstop⟩
  rw [hexec, inOrder_of_stop hstop, Res.andThen_stop]

theorem atomic_mapRes {α β : Type} {f : Pass → α → State → Res β} (h : ∀ x, Atomic fun pass => f pass x) (xs : List α) :
    Atomic fun pass => mapRes (f pass) xs :=
  ⟨fun s => mapRes_refuses (fun x u => (h x).check u) (fun x u y w e => (h x).accessed u y w e) xs s,
    fun _ _ _ e => (mapRes_accessed (fun x u y w e => (h x).accessed u y w e) e).1,
    fun s => mapRes_raises (fun x u => (h x).perform u) xs s, fun s => mapRes_keepsRegs (fun x u => (h x).regs u) xs s⟩

/-- One after the other, the second depending on what the first gives. -/
theorem atomic_bind {α β : Type} {r : Pass → State → Res α} {k : α → Pass → State → Res β} (h : Atomic r)
    (hk : ∀ a, Atomic (k a)) : Atomic fun pass s => (r pass s).bind fun a u => k a pass u := by
  refine ⟨fun s => Res.refuses_bind (h.check s) (h.accessed s) fun a u => (hk a).check u, fun s b w e => ?_,
    fun s => Res.raises_bind (h.perform s) fun a u => (hk a).perform u,
    fun s => Res.keepsRegs_bind (h.regs s) fun a u => (hk a).regs u⟩
  obtain ⟨a, u, h1, h2⟩ := Res.bind_eq_ok e
  exact (h.accessed s a u h1).trans ((hk a).accessed u b w h2)

/-- Accesses alone. -/
theorem atomic_of_accesses {α : Type} {r : State → Res α} (hr : ∀ s, (r s).Refuses s)
    (ha : ∀ s a u, r s = .ok a u → s.Accessed u) : Atomic fun _ => r :=
  ⟨hr, ha, fun s => (hr s).raises (ha s), fun s => Res.keepsRegs_of_accessed (ha s)⟩

theorem atomic_resolve (kind : AccessKind) (tbl : Table) (a : Word) : Atomic fun _ => resolve kind tbl a :=
  atomic_of_accesses (fun _ => resolve_refuses ..) fun _ _ _ => resolve_accessed

theorem atomic_load (g : Target) : Atomic fun _ => load g :=
  atomic_of_accesses (fun _ => load_refuses ..) fun _ _ _ => load_accessed

theorem atomic_readVirt (tbl : Table) (a : Word) : Atomic fun _ => readVirt tbl a :=
  atomic_of_accesses (fun _ => readVirt_refuses ..) fun _ _ _ => readVirt_accessed

theorem atomic_ok {α : Type} (a : α) : Atomic fun _ s => Res.ok a s :=
  atomic_of_accesses (fun s => Res.refuses_ok a s s) fun s _ _ e => by cases e; exact .refl s

theorem atomic_storeIn {α : Type} (a : α) (g : Target) (v : Word) : Atomic fun pass s => .ok a (storeIn pass g v s) :=
  ⟨fun s => Res.refuses_ok a s s, fun s _ _ e => by cases e; exact .refl s, fun s => Res.raises_ok a (storeIn_writing ..),
    fun s => Res.keepsRegs_ok a fun c => reg_storeIn ..⟩

/-! ### Byte accesses -/

theorem atomic_fillByteIn (tbl : Table) (b : Byte) (p : BytePlace) : Atomic fun pass => fillByteIn pass tbl b p :=
  atomic_bind (atomic_resolve ..) fun g => atomic_bind (atomic_load g) fun _ => atomic_storeIn ..

theorem atomic_modifyIn (tbl : Table) (a : Word) (f : Word → Word) : Atomic fun pass => modifyIn pass tbl a f :=
  atomic_bind (atomic_resolve ..) fun g => atomic_bind (atomic_resolve ..) fun _ => atomic_bind (atomic_load g) fun _ =>
    atomic_storeIn ..

theorem atomic_readByte (tbl : Table) (p : BytePlace) : Atomic fun _ => readByte tbl p :=
  atomic_bind (atomic_readVirt ..) fun _ => atomic_ok _

theorem atomic_moveByte (src dst : Table) (q : BytePlace × BytePlace) : Atomic fun pass => moveByte src dst pass q :=
  atomic_bind (atomic_readByte ..) fun _ => atomic_modifyIn ..

theorem atomic_moveAll (src dst : ByteField) (n : Nat) : Atomic (moveAll src dst n) :=
  have reads : Atomic fun _ => mapRes (readByte src.tbl) (src.places n) :=
    atomic_mapRes (f := fun _ => readByte src.tbl) (fun p => atomic_readByte src.tbl p) _
  have writes (bs : List Byte) :
      Atomic fun pass => mapRes (fun q => writeByteIn pass dst.tbl q.1 q.2) ((dst.places n).zip bs) :=
    atomic_mapRes (f := fun pass (q : BytePlace × Byte) => writeByteIn pass dst.tbl q.1 q.2) (fun _ => atomic_modifyIn ..) _
  atomic_bind reads writes

/-- The accesses of a byte store: both of a word, and the word read. -/
def bothAccesses (tbl : Table) (a : Word) (u : State) : Res Word :=
  (resolve .read tbl a u).bind fun g v => (resolve .write tbl a v).bind fun _ w => load g w

theorem writeByteIn_check_eq (tbl : Table) (p : BytePlace) (b : Byte) (u : State) :
    writeByteIn .check tbl p b u = bothAccesses tbl p.addr u := rfl

theorem effect_fillByteIn (tbl : Table) (b : Byte) (p : BytePlace) (u : State) :
    ((resolve .write tbl p.addr u).bind load).effect = (fillByteIn .check tbl b p u).effect :=
  Res.effect_bind_congr rfl fun g g' v h h' => by
    rw [h] at h'
    cases h'
    rfl

theorem effect_readByte (tbl : Table) (p : BytePlace) (u : State) : (readVirt tbl p.addr u).effect = (readByte tbl p u).effect := by
  rw [readByte, Res.effect_bind]
  rfl

/-- Storing as many bytes as there are places. -/
theorem effect_writeBytes (tbl : Table) {ps : List BytePlace} {bs : List Byte} (u : State) (hl : bs.length = ps.length) :
    (mapRes (bothAccesses tbl) (ps.map BytePlace.addr) u).effect
      = (mapRes (fun q => writeByteIn .check tbl q.1 q.2) (ps.zip bs) u).effect := by
  induction ps generalizing bs u with
  | nil => rfl
  | cons p ps ih =>
    obtain ⟨b, bs, rfl⟩ := List.exists_cons_of_length_eq_add_one hl
    exact Res.effect_bind_congr rfl fun _ _ v _ _ =>
      Res.effect_bind_congr (ih v (Nat.succ.inj hl)) fun _ _ _ _ _ => rfl

/-! ### The instructions -/

/-- The addresses of the bytes of a field. -/
theorem places_addr (f : ByteField) (n : Nat) :
    (f.places n).map BytePlace.addr = (List.range n).map fun k => (fieldByte f.start f.right k).addr := by
  rw [ByteField.places, List.map_map]
  rfl

section
variable {s : State}

theorem bfill_refusals (ht : (s.reg .t).getLsbD 13 = false) :
    (mapRes (fun a u => (resolve .write s.dataTable a u).bind load)
        (((byteDest s).places (byteDest s).length).map BytePlace.addr) s).Ends .bfill s
      ∧ ((∃ t, exec .bfill s = .next t ∧ t.reg .p = s.reg .p + 1) ∨ s.Refused (exec .bfill s)) := by
  let part (pass : Pass) := mapRes (fillByteIn pass s.dataTable (oddByte (s.reg .a))) ((byteDest s).places (byteDest s).length)
  have hatomic : Atomic part := atomic_mapRes (atomic_fillByteIn s.dataTable (oddByte (s.reg .a))) _
  have hexec : exec .bfill s = (inOrder part s).andThen fun _ u =>
      .next ((u.setReg .x (descriptorWord1 (s.reg .x) (s.reg .t) (byteDest s).length)).setReg .t
        (descriptorWord2 (s.reg .t) (byteDest s).length 0)).advance := by
    show (if (s.reg .t).getLsbD 13 then _ else _) = _
    rw [ht, if_neg Bool.false_ne_true]
    rfl
  refine ⟨hatomic.ends hexec ?_, hatomic.exec_cases hexec fun u => by simp [State.reg_setReg]⟩
  rw [mapRes_map]
  exact effect_mapRes (effect_fillByteIn _ _) _ s

theorem movb_refusals (hd : (s.reg .d).getLsbD 13 = false) (ht : (s.reg .t).getLsbD 13 = false) :
    ((mapRes (readVirt s.dataTable) (((byteSource s).places (moveCount s)).map BytePlace.addr) s).bind fun _ u =>
        mapRes (bothAccesses s.dataTable) (((byteDest s).places (moveCount s)).map BytePlace.addr) u).Ends .movb s
      ∧ ((∃ t, exec .movb s = .next t ∧ t.reg .p = s.reg .p + 1) ∨ s.Refused (exec .movb s)) := by
  have hatomic := atomic_moveAll (byteSource s) (byteDest s) (moveCount s)
  have hexec : exec .movb s = (inOrder (moveAll (byteSource s) (byteDest s) (moveCount s)) s).andThen fun _ u =>
      .next (u.afterByteMove (moveCount s)).advance := by
    show (if descriptorBit13 s then _ else _) = _
    rw [descriptorBit13_eq_false hd ht, if_neg Bool.false_ne_true]
  refine ⟨hatomic.ends hexec ?_, hatomic.exec_cases hexec fun u => (reg_afterByteMove u _).2.2.2.2⟩
  rw [mapRes_map]
  refine Res.effect_bind_congr (effect_mapRes (effect_readByte _) _ s) fun vs bs u _ hbs => ?_
  refine effect_writeBytes (byteDest s).tbl u ?_
  have hlen := (mapRes_accessed (fun p u b w e => (atomic_readByte (byteSource s).tbl p).accessed u b w e) hbs).2
  rw [hlen, ByteField.places, ByteField.places, List.length_map, List.length_map]

theorem movbf_refusals (hd : (s.reg .d).getLsbD 13 = false) (ht : (s.reg .t).getLsbD 13 = false) :
    (mapRes (fun p u => (readVirt s.dataTable p.1 u).bind fun _ v => bothAccesses s.dataTable p.2 v)
        ((((byteSource s).places (moveCount s)).map BytePlace.addr).zip
          (((byteDest s).places (moveCount s)).map BytePlace.addr)) s).Ends .movbf s
      ∧ ((∃ t, exec .movbf s = .next t ∧ t.reg .p = s.reg .p + 1) ∨ s.Refused (exec .movbf s)) := by
  let part (pass : Pass) := mapRes (moveByte s.dataTable s.dataTable pass)
    (((byteSource s).places (moveCount s)).zip ((byteDest s).places (moveCount s)))
  have hatomic : Atomic part := atomic_mapRes (atomic_moveByte s.dataTable s.dataTable) _
  have hexec : exec .movbf s = (inOrder part s).andThen fun _ u => .next (u.afterByteMove (moveCount s)).advance := by
    show (if descriptorBit13 s then _ else _) = _
    rw [descriptorBit13_eq_false hd ht, if_neg Bool.false_ne_true]
    rfl
  refine ⟨hatomic.ends hexec ?_, hatomic.exec_cases hexec fun u => (reg_afterByteMove u _).2.2.2.2⟩
  rw [List.zip_map, mapRes_map]
  refine effect_mapRes (fun q u => ?_) _ s
  exact Res.effect_bind_congr (effect_readByte _ q.1 u) fun _ _ _ _ _ => rfl

end

/-- Settles O38. -/
theorem byteBlocks : Obligations.ByteBlocks := by
  refine ⟨fun s hw h ht => ?_, fun s hw h hd ht => ?_, fun s ht => ?_⟩
  · intro n lr
    let dst := fieldByte (s.reg .x) lr
    let b : Byte := oddByte (s.reg .a)
    have hn : n ≤ 65536 := by have := ((s.reg .t).extractLsb' 0 12).isLt; omega
    have hu := stored_storeBytes hw dst (fun _ _ => b) (Nat.le_refl n)
    obtain ⟨ht15, ht12, ht0⟩ := descriptorWord2_fields (s.reg .t) n 0
    refine ⟨_, exec_bfill_plain h hw ht, fun i hi => ?_, fun p hp => ?_, ?_, ?_, ?_, ?_, ?_,
      (((hu.frameIn _ _).setRegIn _ (by simp)).setRegIn _ (by simp)).advanceIn (by simp)⟩
    · simp only [State.byte, word_advance, word_setReg]
      exact byte_storeBytes_inside hw dst (fun _ _ => b) (fieldByte_inj hn) hi
    · simp only [State.byte, word_advance, word_setReg]
      exact byte_storeBytes_outside hw dst (fun _ _ => b) hp
    · simp [State.reg_advance_eq, State.reg_setReg]
      rfl
    · simp only [State.reg_advance_eq, State.reg_setReg]
      exact ht15
    · simp only [State.reg_advance_eq, State.reg_setReg]
      exact ht12
    · simp only [State.reg_advance_eq, State.reg_setReg]
      exact ht0
    · simp [State.reg_setReg]
      exact hu.reg .p
  · intro n src dst i hi
    have hn : n ≤ 65536 := by
      have := ((s.reg .t).extractLsb' 0 12).isLt
      have : n ≤ ((s.reg .t).extractLsb' 0 12).toNat := Nat.min_le_right _ _
      omega
    have hinj := fieldByte_inj (d1 := s.reg .x) (right := (s.reg .t).getLsbD 15) hn
    simp only [List.mem_cons, List.not_mem_nil, or_false] at hi
    obtain rfl | rfl := hi
    · have hu := stored_storeBytes hw dst (fun k _ => s.byte (src k)) (Nat.le_refl n)
      refine ⟨_, exec_movb_plain h hw hd ht, fun _ k hk => ?_, fun e => (by cases e), fun p hp => ?_, afterByteMove_spec hu⟩
      · rw [byte_afterByteMove]
        exact byte_storeBytes_inside hw dst (fun k _ => s.byte (src k)) hinj hk
      · rw [byte_afterByteMove]
        exact byte_storeBytes_outside hw dst _ hp
    · have hu := stored_storeBytes hw dst (fun k u => u.byte (src k)) (Nat.le_refl n)
      refine ⟨_, exec_movbf_plain h hw hd ht, fun e => (by cases e), fun _ k hk => ?_, fun p hp => ?_, afterByteMove_spec hu⟩
      · simp only [byte_afterByteMove]
        exact copied_eq (M := fun k => (storeBytes dst (fun k u => u.byte (src k)) s k).byte)
          (fun k _ => byte_storeBytes_at hw dst _ k) (fun k _ p hp => byte_storeBytes_other hw dst _ k p hp) hinj hk
      · rw [byte_afterByteMove]
        exact byte_storeBytes_outside hw dst _ hp
  · intro tbl both fill words length n src dst atOnce
    have hsrc : ((byteSource s).places (moveCount s)).map BytePlace.addr = src := places_addr ..
    have hdst : ((byteDest s).places (moveCount s)).map BytePlace.addr = dst := places_addr ..
    have hfill : ((byteDest s).places (byteDest s).length).map BytePlace.addr = words (s.reg .x) (s.reg .t) length :=
      places_addr ..
    obtain ⟨hends, honce⟩ := bfill_refusals ht
    refine ⟨hfill ▸ hends, honce, fun hd => ?_⟩
    obtain ⟨hb, hbonce⟩ := movb_refusals hd ht
    obtain ⟨hbf, hbfonce⟩ := movbf_refusals hd ht
    rw [hsrc, hdst] at hb hbf
    exact ⟨hb, hbonce, hbf, hbfonce⟩

end Sys2Proof.Machine
end

section
/-! PROOF. MOVEW with paging off (O39). -/

namespace Sys2Proof.Machine

/-! ### One word -/

/-- What one side of a transfer reaches with paging off. -/
def moveTarget (space : MoveSpace) (hi lo : Word) (s : State) : Target :=
  match space with
  | .virt _ => s.wordTarget lo
  | .phys => s.physTarget (physAddr (bankReg hi) lo)

theorem moveTarget_ne_absent (space : MoveSpace) (hi lo : Word) (s : State) : moveTarget space hi lo s ≠ .absent := by
  cases space with
  | virt tbl => exact wordTarget_ne_absent s lo
  | phys => exact physTarget_ne_absent s _

theorem resolveMove_plain {s : State} (h : s.plain) (kind : AccessKind) (space : MoveSpace) (hi lo : Word) :
    resolveMove kind space hi lo s = .ok (moveTarget space hi lo s) s := by
  cases space with
  | virt tbl => exact resolve_plain h kind tbl lo
  | phys => exact resolvePhys_plain h kind _

/-- The source of the next word. -/
def moveFrom (kind : MovewKind) (s : State) : Target := moveTarget (moveSource kind) (s.reg .a) (s.reg .d) s

/-- Its destination. -/
def moveTo (kind : MovewKind) (s : State) : Target := moveTarget (moveDest kind) (s.reg .x) (s.reg .t) s

/-- The state after one word. -/
def moveNext (kind : MovewKind) (s : State) : State :=
  let u := stepAddress (moveDest kind) .x .t (stepAddress (moveSource kind) .a .d
    (store (moveTo kind s) (s.wordAt (moveFrom kind s)) s))
  u.setReg .l (u.reg .l - 1)

theorem moveOneWord_plain {s : State} (h : s.plain) (kind : MovewKind) :
    moveOneWord kind s = .ok () (moveNext kind s) := by
  rw [moveOneWord, resolveMove_plain h, Res.bind_ok, load, peek_of_ne_absent (moveTarget_ne_absent _ _ _ s), Res.bind_ok,
    resolveMove_plain h]
  rfl

/-! ### Addresses -/

/-- The carry out of the low word of an address after `k` words. -/
def carryOf (lo : Word) (k : Nat) : Word := if 65536 ≤ lo.toNat + k then 1 else 0

/-- The high word of an address after `k` words. -/
def carried (space : MoveSpace) (hi lo : Word) (k : Nat) : Word := if space = .phys then hi + carryOf lo k else hi

theorem carried_zero (space : MoveSpace) (hi lo : Word) : carried space hi lo 0 = hi := by
  have := lo.isLt
  unfold carried carryOf
  rw [if_neg (show ¬65536 ≤ lo.toNat + 0 by omega)]
  split <;> simp

theorem carried_succ (space : MoveSpace) (hi lo : Word) {k : Nat} (hk : k < 65536) :
    carried space hi lo (k + 1) = if space = .phys ∧ lo + BitVec.ofNat 16 k + 1 = 0 then carried space hi lo k + 1
      else carried space hi lo k := by
  have hlo := lo.isLt
  have hzero : lo + BitVec.ofNat 16 k + 1 = 0 ↔ lo.toNat + k + 1 = 65536 := by
    rw [← BitVec.toNat_inj]
    simp
    omega
  unfold carried carryOf
  by_cases hs : space = .phys
  · simp only [hs, true_and, if_true, hzero]
    split <;> split <;> split <;> first | omega | simp
  · simp only [hs, false_and, if_false]

theorem stepAddress_special (space : MoveSpace) (hi lo : Reg) (s : State) :
    ∃ l, stepAddress space hi lo s = { s with levels := l } := by
  unfold stepAddress
  dsimp only
  split <;> exact ⟨_, rfl⟩

theorem reg_stepAddress (space : MoveSpace) {hi lo : Reg} (hne : hi ≠ lo) (s : State) (c : Reg) :
    (stepAddress space hi lo s).reg c = if c = lo then s.reg lo + 1
      else if c = hi then (if space = .phys ∧ s.reg lo + 1 = 0 then s.reg hi + 1 else s.reg hi) else s.reg c := by
  unfold stepAddress
  dsimp only
  by_cases hc : c = lo
  · subst hc
    split <;> simp [State.reg_setReg, hne.symm]
  · by_cases hh : c = hi
    · subst hh
      split <;> simp [State.reg_setReg, *]
    · split <;> simp [State.reg_setReg, hc, hh]

theorem State.Frame.stepAddressIn {rs : List Reg} {fs : List Flag} {gs : List Target} {s t : State} (h : s.Frame rs fs gs t)
    (space : MoveSpace) {hi lo : Reg} (hhi : hi ∈ rs) (hlo : lo ∈ rs) : s.Frame rs fs gs (stepAddress space hi lo t) := by
  unfold stepAddress
  dsimp only
  split
  · exact (h.setRegIn _ hlo).setRegIn _ hhi
  · exact h.setRegIn _ hlo

/-! ### A run of words -/

/-- The state after `k` words. -/
def moveState (kind : MovewKind) (s : State) : Nat → State
  | 0 => s
  | k + 1 => moveNext kind (moveState kind s k)

/-- The source of word `k`. -/
def moveSrc (kind : MovewKind) (s : State) (k : Nat) : Target :=
  moveTarget (moveSource kind) (carried (moveSource kind) (s.reg .a) (s.reg .d) k) (s.reg .d + BitVec.ofNat 16 k) s

/-- The destination of word `k`. -/
def moveDst (kind : MovewKind) (s : State) (k : Nat) : Target :=
  moveTarget (moveDest kind) (carried (moveDest kind) (s.reg .x) (s.reg .t) k) (s.reg .t + BitVec.ofNat 16 k) s

/-- The progress of a transfer after `k` words. -/
structure MoveProgress (kind : MovewKind) (s : State) (gs : List Target) (k : Nat) (u : State) : Prop where
  same : ∃ l m p, u = { s with levels := l, mem := m, ptab := p }
  memoryWf : u.memoryWf
  d : u.reg .d = s.reg .d + BitVec.ofNat 16 k
  t : u.reg .t = s.reg .t + BitVec.ofNat 16 k
  l : u.reg .l = s.reg .l - BitVec.ofNat 16 k
  a : u.reg .a = carried (moveSource kind) (s.reg .a) (s.reg .d) k
  x : u.reg .x = carried (moveDest kind) (s.reg .x) (s.reg .t) k
  p : u.reg .p = s.reg .p
  frame : s.Frame [.a, .d, .x, .t, .l, .p] [] gs u

section
variable {kind : MovewKind} {s u : State} {gs : List Target} {k : Nat}

theorem MoveProgress.plain (h : MoveProgress kind s gs k u) (hs : s.plain) : u.plain := by
  obtain ⟨l, m, p, rfl⟩ := h.same
  exact hs

theorem MoveProgress.target (h : MoveProgress kind s gs k u) (space : MoveSpace) (hi lo : Word) :
    moveTarget space hi lo u = moveTarget space hi lo s := by
  obtain ⟨l, m, p, rfl⟩ := h.same
  rfl

theorem MoveProgress.from_eq (h : MoveProgress kind s gs k u) : moveFrom kind u = moveSrc kind s k := by
  rw [moveFrom, h.target, h.a, h.d, moveSrc]

theorem MoveProgress.to_eq (h : MoveProgress kind s gs k u) : moveTo kind u = moveDst kind s k := by
  rw [moveTo, h.target, h.x, h.t, moveDst]

theorem add_ofNat_succ (w : Word) (k : Nat) : w + BitVec.ofNat 16 (k + 1) = w + BitVec.ofNat 16 k + 1 := by
  rw [BitVec.ofNat_add, BitVec.add_assoc]
  rfl

theorem sub_ofNat_succ (w : Word) (k : Nat) : w - BitVec.ofNat 16 (k + 1) = w - BitVec.ofNat 16 k - 1 := by
  rw [BitVec.sub_sub, BitVec.ofNat_add]
  rfl

/-- One word changes levels and memory. -/
theorem moveNext_special (kind : MovewKind) (u : State) : ∃ l, moveNext kind u =
    { store (moveTo kind u) (u.wordAt (moveFrom kind u)) u with levels := l } := by
  obtain ⟨l, hl⟩ := stepAddress_special (moveSource kind) .a .d (store (moveTo kind u) (u.wordAt (moveFrom kind u)) u)
  obtain ⟨l', hl'⟩ := stepAddress_special (moveDest kind) .x .t
    (stepAddress (moveSource kind) .a .d (store (moveTo kind u) (u.wordAt (moveFrom kind u)) u))
  exact ⟨_, by rw [moveNext, hl', hl]; rfl⟩

theorem MoveProgress.zero (hw : s.memoryWf) : MoveProgress kind s gs 0 s :=
  ⟨⟨_, _, _, rfl⟩, hw, by simp, by simp, by simp, (carried_zero ..).symm, (carried_zero ..).symm, rfl, .refl ..⟩

theorem MoveProgress.next (h : MoveProgress kind s gs k u) (hk : k < 65536) (hg : moveDst kind s k ∈ gs) :
    MoveProgress kind s gs (k + 1) (moveNext kind u) := by
  have had : Reg.a ≠ .d := by decide
  have hxt : Reg.x ≠ .t := by decide
  have hframe : s.Frame [.a, .d, .x, .t, .l, .p] [] gs (moveNext kind u) :=
    ((((h.frame.storeIn h.memoryWf _ (h.to_eq ▸ hg)).stepAddressIn (moveSource kind) (hi := .a) (lo := .d) (by simp)
      (by simp)).stepAddressIn (moveDest kind) (hi := .x) (lo := .t) (by simp) (by simp)).setRegIn _ (by simp))
  refine ⟨?_, ?_, ?_, ?_, ?_, ?_, ?_, ?_, hframe⟩
  · obtain ⟨l, hl⟩ := moveNext_special kind u
    obtain ⟨l', m, p, hu⟩ := h.same
    rw [hl, hu]
    cases moveTo kind { s with levels := l', mem := m, ptab := p } <;> exact ⟨_, _, _, rfl⟩
  · obtain ⟨l, hl⟩ := moveNext_special kind u
    rw [hl]
    exact store_memoryWf h.memoryWf
  · simp [moveNext, State.reg_setReg, reg_stepAddress _ had, reg_stepAddress _ hxt, h.d, add_ofNat_succ]
  · simp [moveNext, State.reg_setReg, reg_stepAddress _ had, reg_stepAddress _ hxt, h.t, add_ofNat_succ]
  · rw [sub_ofNat_succ, ← h.l]
    simp [moveNext, reg_stepAddress _ had, reg_stepAddress _ hxt]
  · rw [carried_succ _ _ _ hk, ← h.a, ← h.d]
    simp [moveNext, State.reg_setReg, reg_stepAddress _ had, reg_stepAddress _ hxt]
  · rw [carried_succ _ _ _ hk, ← h.x, ← h.t]
    simp [moveNext, State.reg_setReg, reg_stepAddress _ had, reg_stepAddress _ hxt]
  · simp [moveNext, State.reg_setReg, reg_stepAddress _ had, reg_stepAddress _ hxt, h.p]

/-- The words of memory after one more word. -/
theorem MoveProgress.wordAt_next (h : MoveProgress kind s gs k u) :
    (moveNext kind u).wordAt = (store (moveDst kind s k) (u.wordAt (moveSrc kind s k)) u).wordAt := by
  obtain ⟨l, hl⟩ := moveNext_special kind u
  rw [hl, h.to_eq, h.from_eq]
  rfl

end

theorem MoveProgress.run {kind : MovewKind} {s : State} {gs : List Target} (hw : s.memoryWf) :
    ∀ {k : Nat}, k ≤ 65536 → (∀ j < k, moveDst kind s j ∈ gs) → MoveProgress kind s gs k (moveState kind s k)
  | 0, _, _ => .zero hw
  | k + 1, hk, hg => (MoveProgress.run hw (by omega) fun j hj => hg j (by omega)).next (by omega) (hg k (by omega))

theorem moveState_moveNext (kind : MovewKind) (s : State) : ∀ n, moveState kind (moveNext kind s) n = moveState kind s (n + 1)
  | 0 => rfl
  | n + 1 => congrArg (moveNext kind) (moveState_moveNext kind s n)

theorem repeatRes_moveOneWord (kind : MovewKind) : ∀ (n : Nat) {s : State}, (∀ k < n, (moveState kind s k).plain) →
    repeatRes (moveOneWord kind) n s = .ok () (moveState kind s n)
  | 0, _, _ => rfl
  | n + 1, s, h => by
    have hrest := repeatRes_moveOneWord kind n (s := moveNext kind s) fun k hk => by
      rw [moveState_moveNext]
      exact h (k + 1) (by omega)
    rw [repeatRes, moveOneWord_plain (s := s) (h 0 (by omega)), Res.bind_ok, hrest, moveState_moveNext]

theorem moveTarget_inj {space : MoveSpace} {hi hi' lo lo' : Word} {s : State}
    (h : moveTarget space hi lo s = moveTarget space hi' lo' s) : lo = lo' := by
  cases space with
  | virt tbl => exact (wordTarget_inj s).mp h
  | phys =>
    have hoff := congrArg offsetOf ((physTarget_inj s).mp h)
    rwa [offsetOf_physAddr, offsetOf_physAddr] at hoff

/-- Two words of a transfer of less than 65536 words go to different places. -/
theorem moveDst_inj {kind : MovewKind} {s : State} {i j : Nat} (hi : i < 65536) (hj : j < 65536)
    (h : moveDst kind s i = moveDst kind s j) : i = j := by
  have hoff := congrArg BitVec.toNat (add_left_cancel (moveTarget_inj h))
  rwa [BitVec.toNat_ofNat, BitVec.toNat_ofNat, Nat.mod_eq_of_lt hi, Nat.mod_eq_of_lt hj] at hoff

/-- What the words of a transfer hold at its end. -/
theorem wordAt_moveState {kind : MovewKind} {s : State} (hw : s.memoryWf) {n k : Nat} (hn : n ≤ 65536) (hk : k < n)
    [Decidable (∃ j < k, moveSrc kind s k = moveDst kind s j)] :
    (moveState kind s n).wordAt (moveDst kind s k) = if ∃ j < k, moveSrc kind s k = moveDst kind s j
      then (moveState kind s n).wordAt (moveSrc kind s k) else s.wordAt (moveSrc kind s k) := by
  have hprog (i : Nat) (hi : i < n) : MoveProgress kind s ((List.range n).map (moveDst kind s)) i (moveState kind s i) :=
    .run hw (by omega) fun j hj => List.mem_map_of_mem (List.mem_range.mpr (by omega))
  refine copied_eq (M := fun i => (moveState kind s i).wordAt) (fun i hi => ?_) (fun i hi p hp => ?_)
    (fun i hi j hj => moveDst_inj (by omega) (by omega)) hk
  · exact (congrFun (hprog i hi).wordAt_next _).trans
      (wordAt_store _ (hprog i hi).memoryWf (moveTarget_ne_absent _ _ _ s))
  · exact (congrFun (hprog i hi).wordAt_next p).trans (wordAt_store_ne _ (hprog i hi).memoryWf hp)

theorem exec_movew {s : State} (h : s.plain) (kind : MovewKind) : exec (.movew kind) s = moveWords kind s := by
  change execMovew kind s = _
  unfold execMovew
  split
  · exact privileged_of_not_user _ (userMode_plain h)
  · rfl

end Sys2Proof.Machine

namespace Sys2Proof
open Machine

/-- Settles O39: the state after each number of words is followed by `MoveProgress`, the words of memory by the copy in
ascending order. -/
theorem moveWords : Obligations.MoveWords := by
  unfold Obligations.MoveWords
  intro kind s hw h
  have hsrc : (fun k => if decide (kind ∈ [MovewKind.physPt, .physApt, .physPhys]) then
      s.physTarget ((s.reg .a + carryOf (s.reg .d) k).extractLsb' 0 8 ++ (s.reg .d + BitVec.ofNat 16 k))
      else s.wordTarget (s.reg .d + BitVec.ofNat 16 k)) = moveSrc kind s := by
    cases kind <;> rfl
  have hdst : (fun k => if decide (kind ∈ [MovewKind.ptPhys, .aptPhys, .physPhys]) then
      s.physTarget ((s.reg .x + carryOf (s.reg .t) k).extractLsb' 0 8 ++ (s.reg .t + BitVec.ofNat 16 k))
      else s.wordTarget (s.reg .t + BitVec.ofNat 16 k)) = moveDst kind s := by
    cases kind <;> rfl
  intro n fromPhys toPhys carry target src dst
  have hsrc' : src = moveSrc kind s := hsrc
  have hdst' : dst = moveDst kind s := hdst
  rw [exec_movew h, hsrc', hdst', Machine.moveWords]
  refine ⟨fun hlong => if_pos hlong, fun hshort => ?_⟩
  have hn : n ≤ (s.reg .l).toNat := Nat.min_le_left ..
  replace hshort : (s.reg .l).toNat ≤ 2048 := hshort
  have hprog (k : Nat) (hk : k ≤ n) : MoveProgress kind s ((List.range n).map (moveDst kind s)) k (moveState kind s k) :=
    .run hw (by omega) fun j hj => List.mem_map_of_mem (List.mem_range.mpr (by omega))
  have hrun := repeatRes_moveOneWord kind n fun k hk => (hprog k (by omega)).plain h
  obtain ⟨_, _, hd, ht, hl, ha, hx, hp, hframe⟩ := hprog n (Nat.le_refl n)
  have hdone : (moveState kind s n).reg .l = 0 ↔ n = (s.reg .l).toNat := by
    rw [hl, ← BitVec.toNat_inj, BitVec.toNat_sub_of_le (by rw [BitVec.le_def, BitVec.toNat_ofNat]; omega), BitVec.toNat_ofNat]
    change _ = 0 ↔ _
    omega
  have hfrom : moveSource kind = .phys ↔ fromPhys := by cases kind <;> decide
  have hto : moveDest kind = .phys ↔ toPhys := by cases kind <;> decide
  have hwords (k : Nat) (hk : k < n) := wordAt_moveState (kind := kind) hw (show n ≤ 65536 by omega) hk
  replace ha : (moveState kind s n).reg .a = if fromPhys then s.reg .a + carry (s.reg .d) n else s.reg .a := by
    rw [ha, carried, if_congr hfrom rfl rfl]
    rfl
  replace hx : (moveState kind s n).reg .x = if toPhys then s.reg .x + carry (s.reg .t) n else s.reg .x := by
    rw [hx, carried, if_congr hto rfl rfl]
    rfl
  refine ⟨if n = (s.reg .l).toNat then (moveState kind s n).advance else moveState kind s n, ?_, ?_⟩
  · rw [if_neg (show ¬2048 < s.reg .l from not_lt.mpr hshort), hrun, Res.andThen_ok, if_congr hdone rfl rfl]
  by_cases hend : n = (s.reg .l).toNat
  · rw [if_pos hend, if_pos hend]
    refine ⟨?_, ?_, ?_, ?_, ?_, ?_, ?_, hframe.advanceIn (by simp)⟩
    · simpa [State.reg_advance_eq] using hd
    · simpa [State.reg_advance_eq] using ht
    · simpa [State.reg_advance_eq] using ha
    · simpa [State.reg_advance_eq] using hx
    · simpa [State.reg_advance_eq] using hl
    · simpa using hp
    · simpa using hwords
  · rw [if_neg hend, if_neg hend]
    exact ⟨hd, ht, ha, hx, hl, hp, hwords, hframe⟩

end Sys2Proof
end

section
/-! PROOF. Decimal fields read back as they were written (O41). -/

namespace Sys2Proof.Machine

/-! ### Digits -/

theorem length_decimalDigits : ∀ n m : Nat, (decimalDigits n m).length = n
  | 0, _ => rfl
  | n + 1, m => by rw [decimalDigits, List.length_append, length_decimalDigits n, List.length_singleton]

theorem lt_of_mem_decimalDigits : ∀ {n m x : Nat}, x ∈ decimalDigits n m → x < 10
  | n + 1, m, x, h => by
    rcases List.mem_append.mp h with h | h
    · exact lt_of_mem_decimalDigits h
    · rw [List.mem_singleton.mp h]
      exact Nat.mod_lt _ (by decide)

theorem digitsValue_concat (ds : List Nat) (x : Nat) : digitsValue (ds ++ [x]) = 10 * digitsValue ds + x := by
  rw [digitsValue, List.foldl_append]
  rfl

/-- The digits of a number are those of the number cut to them. -/
theorem digitsValue_decimalDigits : ∀ n m : Nat, digitsValue (decimalDigits n m) = m % 10 ^ n
  | 0, m => by rw [Nat.pow_zero, Nat.mod_one]; rfl
  | n + 1, m => by
    rw [decimalDigits, digitsValue_concat, digitsValue_decimalDigits n, Nat.pow_succ', Nat.mod_mul]
    omega

/-! ### BCD -/

theorem nibbles_cons (a b : Nibble) (bs : List Byte) : nibbles ((a ++ b) :: bs) = a :: b :: nibbles bs := by
  rw [nibbles, List.flatMap_cons]
  exact congrArg₂ (· :: · :: nibbles bs) BitVec.extractLsb'_append_eq_left BitVec.extractLsb'_append_eq_right

/-- An even number of nibbles is packed into bytes without loss. -/
theorem nibbles_packNibbles : ∀ {k : Nat} {ns : List Nibble}, ns.length = 2 * k →
    (packNibbles ns).length = k ∧ nibbles (packNibbles ns) = ns
  | 0, ns, h => by
    rw [List.length_eq_zero_iff.mp h]
    exact ⟨rfl, rfl⟩
  | k + 1, ns, h => by
    obtain ⟨a, ms, rfl⟩ := List.exists_cons_of_length_eq_add_one h
    obtain ⟨b, ms, rfl⟩ := List.exists_cons_of_length_eq_add_one (Nat.succ_inj.mp h)
    obtain ⟨hlen, hns⟩ := nibbles_packNibbles (k := k) (ns := ms) (by simp only [List.length_cons] at h; omega)
    rw [packNibbles, nibbles_cons, hns, List.length_cons, hlen]
    exact ⟨rfl, rfl⟩

theorem bcdChecks_concat (ds : List Nibble) (sign : Nibble) :
    bcdChecks (ds ++ [sign]) = ds.map (bcdLegal false) ++ [bcdLegal true sign] := by
  rw [bcdChecks, List.dropLast_concat, List.length_append, List.length_singleton, Nat.add_sub_cancel, List.drop_left]
  rfl

theorem bcdNumber_concat (ds : List Nibble) (sign : Nibble) : bcdNumber (ds ++ [sign]) =
    { neg := bcdMinus sign, unsigned := sign == 15, mag := digitsValue (ds.map BitVec.toNat) } := by
  rw [bcdNumber, List.getLast?_concat, List.dropLast_concat]

/-- The digits of a BCD field. -/
def bcdDigits (n mag : Nat) : List Nibble := (decimalDigits n mag).map (BitVec.ofNat 4)

theorem bcdDigits_legal (n mag : Nat) : ((bcdDigits n mag).map (bcdLegal false)).all (· == true) = true := by
  rw [List.all_eq_true]
  intro b hb
  obtain ⟨d, hd, rfl⟩ := List.mem_map.mp hb
  obtain ⟨x, hx, rfl⟩ := List.mem_map.mp hd
  have hx := lt_of_mem_decimalDigits hx
  have hlt : BitVec.ofNat 4 x < 10 := by
    rw [BitVec.lt_def, BitVec.toNat_ofNat]
    change x % 16 < 10
    omega
  rw [beq_true]
  exact decide_eq_true hlt

theorem digitsValue_bcdDigits (n mag : Nat) : digitsValue ((bcdDigits n mag).map BitVec.toNat) = mag % 10 ^ n := by
  have hid : (bcdDigits n mag).map BitVec.toNat = decimalDigits n mag := by
    rw [bcdDigits, List.map_map]
    refine (List.map_congr_left (g := id) fun x hx => ?_).trans (List.map_id _)
    have := lt_of_mem_decimalDigits hx
    exact (BitVec.toNat_ofNat ..).trans (Nat.mod_eq_of_lt (by omega))
  rw [hid, digitsValue_decimalDigits]

theorem encodeBcd_eq {n : Nat} (hn : 0 < n) (sign : Nibble) (mag : Nat) :
    encodeBcd n sign mag = packNibbles (bcdDigits (n - 1) mag ++ [sign]) := if_neg (by omega)

theorem length_bcdDigits_concat {k : Nat} (hk : 0 < k) (sign : Nibble) (mag : Nat) :
    (bcdDigits (2 * k - 1) mag ++ [sign]).length = 2 * k := by
  rw [List.length_append, bcdDigits, List.length_map, length_decimalDigits, List.length_singleton]
  omega

theorem length_encodeBcd {k : Nat} (hk : 0 < k) (sign : Nibble) (mag : Nat) : (encodeBcd (2 * k) sign mag).length = k := by
  rw [encodeBcd_eq (by omega)]
  exact (nibbles_packNibbles (length_bcdDigits_concat hk sign mag)).1

theorem decodeBcd_encodeBcd {k : Nat} (hk : 0 < k) {sign : Nibble} (hs : 10 ≤ sign) (mag : Nat) :
    decodeBcd (nibbles (encodeBcd (2 * k) sign mag)) =
      some { neg := bcdMinus sign, unsigned := sign == 15, mag := mag % 10 ^ (2 * k - 1) } := by
  rw [encodeBcd_eq (by omega), (nibbles_packNibbles (length_bcdDigits_concat hk sign mag)).2, decodeBcd, if_pos,
    bcdNumber_concat, digitsValue_bcdDigits]
  have hsign : bcdLegal true sign = true := decide_eq_true hs
  rw [bcdChecks_concat, List.all_append, bcdDigits_legal, hsign]
  rfl

/-! ### ASCII -/

theorem readAsciiDigit_asciiDigit {x : Nat} (hx : x < 10) : readAsciiDigit (asciiDigit x) = some x := by
  interval_cases x <;> rfl

theorem readEmbedded_embeddedCode (neg : Bool) {x : Nat} (hx : x < 10) :
    readEmbedded (embeddedCode neg x) = some (neg, x) := by
  interval_cases x <;> cases neg <;> rfl

theorem readSeparate_separateCode (neg : Bool) : readSeparate (separateCode neg) = some neg := by
  cases neg <;> rfl

section
variable (form : AsciiForm) (n : Nat)

theorem readAsciiBytes_append : ∀ (i : Nat) (as bs : List Byte), readAsciiBytes form n i (as ++ bs) =
    readAsciiBytes form n i as ++ readAsciiBytes form n (i + as.length) bs
  | _, [], _ => rfl
  | i, a :: as, bs => by
    rw [List.cons_append, readAsciiBytes, readAsciiBytes_append (i + 1), readAsciiBytes, List.length_cons,
      Nat.add_right_comm, Nat.add_assoc, List.cons_append]

/-- The reading of a plain digit. -/
def digitPart (x : Nat) : Bool × List Nat := (false, [x])

/-- A run of plain digits, away from the sign, reads back. -/
theorem readAsciiBytes_digits : ∀ (i : Nat) (ds : List Nat), (∀ x ∈ ds, x < 10) →
    (∀ j, signIndex form n = some j → j < i ∨ i + ds.length ≤ j) →
    readAsciiBytes form n i (ds.map asciiDigit) = (ds.map digitPart).map some
  | _, [], _, _ => rfl
  | i, x :: ds, hx, hsign => by
    have hi : (signIndex form n == some i) = false := by
      rw [beq_eq_false_iff_ne]
      intro h
      have := hsign i h
      simp only [List.length_cons] at this
      omega
    rw [List.map_cons, readAsciiBytes, hi, readAsciiBytes_digits (i + 1) ds fun y hy => hx y (List.mem_cons_of_mem _ hy),
      readAsciiByte, if_neg Bool.false_ne_true, readAsciiDigit_asciiDigit (hx x List.mem_cons_self)]
    · rfl
    · intro j hj
      have := hsign j hj
      simp only [List.length_cons] at this
      omega

variable {form n}

/-- The byte of a separate sign reads back. -/
theorem readAsciiBytes_separate {i : Nat} (hf : separateSign form = true) (hi : signIndex form n = some i) (neg : Bool) :
    readAsciiBytes form n i [separateCode neg] = [some (neg, [])] := by
  rw [readAsciiBytes, hi, beq_self_eq_true, readAsciiByte, if_pos rfl, if_pos hf, readSeparate_separateCode]
  rfl

/-- The byte of a digit with the sign in it reads back. -/
theorem readAsciiBytes_embedded {i : Nat} (hf : separateSign form = false) (hi : signIndex form n = some i) (neg : Bool)
    {x : Nat} (hx : x < 10) : readAsciiBytes form n i [embeddedCode neg x] = [some (neg, [x])] := by
  rw [readAsciiBytes, hi, beq_self_eq_true, readAsciiByte, if_pos rfl, hf, if_neg Bool.false_ne_true,
    readEmbedded_embeddedCode neg hx]
  rfl

end

theorem any_digitParts (ds : List Nat) : (ds.map digitPart).any (·.1) = false := by
  rw [List.any_eq_false]
  intro p hp
  obtain ⟨x, -, rfl⟩ := List.mem_map.mp hp
  exact Bool.false_ne_true

theorem flatMap_digitParts : ∀ ds : List Nat, (ds.map digitPart).flatMap (·.2) = ds
  | [] => rfl
  | x :: ds => congrArg (x :: ·) (flatMap_digitParts ds)

/-- The readings of an ASCII field are those of its digits and its sign. -/
theorem readAsciiBytes_encodeAscii (form : AsciiForm) {n : Nat} (hn : 0 < n) (neg : Bool) (mag : Nat)
    (hu : form = .unsigned → neg = false) : ∃ parts : List (Bool × List Nat),
      readAsciiBytes form n 0 (encodeAscii form n neg mag) = parts.map some ∧ parts.any (·.1) = neg
        ∧ parts.flatMap (·.2) = decimalDigits (asciiCapacity form n) mag := by
  have hlen := length_decimalDigits (asciiCapacity form n) mag
  have hlt := fun x => @lt_of_mem_decimalDigits (asciiCapacity form n) mag x
  have hpos : n ≠ 0 := by omega
  simp only [encodeAscii, if_neg hpos]
  generalize decimalDigits (asciiCapacity form n) mag = ds at hlen hlt
  obtain ⟨m, rfl⟩ : ∃ m, n = m + 1 := ⟨n - 1, by omega⟩
  cases form with
  | unsigned =>
    refine ⟨ds.map digitPart, readAsciiBytes_digits _ _ 0 ds hlt (by simp [signIndex]), ?_, flatMap_digitParts ds⟩
    rw [any_digitParts, hu rfl]
  | separateTrailing =>
    replace hlen : ds.length = m := hlen
    refine ⟨ds.map digitPart ++ [(neg, [])], ?_, ?_, ?_⟩
    · rw [readAsciiBytes_append, readAsciiBytes_digits _ _ 0 ds hlt (by simp [signIndex, hlen]),
        readAsciiBytes_separate rfl (by simp [signIndex, hlen]), List.map_append]
      rfl
    · rw [List.any_append, any_digitParts]
      simp
    · simp [flatMap_digitParts]
  | separateLeading =>
    refine ⟨(neg, []) :: ds.map digitPart, ?_, ?_, ?_⟩
    · change readAsciiBytes _ _ 0 ([separateCode neg] ++ ds.map asciiDigit) = _
      rw [readAsciiBytes_append, readAsciiBytes_digits _ _ _ ds hlt (by simp [signIndex]),
        readAsciiBytes_separate rfl rfl]
      rfl
    · rw [List.any_cons, any_digitParts, Bool.or_false]
    · simp [flatMap_digitParts]
  | embeddedTrailing =>
    replace hlen : ds.length = m + 1 := hlen
    obtain ⟨es, x, rfl⟩ : ∃ es x, ds = es ++ [x] :=
      ⟨_, _, (List.dropLast_concat_getLast (List.ne_nil_of_length_eq_add_one hlen)).symm⟩
    replace hlen : es.length = m := by simpa using hlen
    refine ⟨es.map digitPart ++ [(neg, [x])], ?_, ?_, ?_⟩
    · have hdrop : (es ++ [x]).drop (m + 1 - 1) = [x] := by rw [Nat.add_sub_cancel, ← hlen, List.drop_left]
      rw [List.dropLast_concat, hdrop, List.map_singleton, readAsciiBytes_append,
        readAsciiBytes_digits _ _ 0 es (fun y hy => hlt y (List.mem_append_left _ hy)) (by simp [signIndex, hlen]),
        readAsciiBytes_embedded rfl (by simp [signIndex, hlen]) neg (hlt x (by simp)), List.map_append]
      rfl
    · rw [List.any_append, any_digitParts]
      simp
    · simp [flatMap_digitParts]
  | embeddedLeading =>
    obtain ⟨x, es, rfl⟩ := List.exists_cons_of_length_eq_add_one hlen
    refine ⟨(neg, [x]) :: es.map digitPart, ?_, ?_, ?_⟩
    · change readAsciiBytes _ _ 0 ([embeddedCode neg x] ++ es.map asciiDigit) = _
      rw [readAsciiBytes_append, readAsciiBytes_digits _ _ _ es (fun y hy => hlt y (List.mem_cons_of_mem _ hy))
        (by simp [signIndex]), readAsciiBytes_embedded rfl rfl neg (hlt x List.mem_cons_self)]
      rfl
    · rw [List.any_cons, any_digitParts, Bool.or_false]
    · simp [flatMap_digitParts]

/-- An ASCII field reads back. -/
theorem asciiNumber_encodeAscii (form : AsciiForm) {n : Nat} (hn : 0 < n) (neg : Bool) (mag : Nat)
    (hu : form = .unsigned → neg = false) :
    (∀ r ∈ readAsciiBytes form n 0 (encodeAscii form n neg mag), r ≠ none)
      ∧ asciiNumber form (readAsciiBytes form n 0 (encodeAscii form n neg mag)) =
        { neg := neg, unsigned := form == .unsigned, mag := mag % 10 ^ asciiCapacity form n } := by
  obtain ⟨parts, hr, hneg, hds⟩ := readAsciiBytes_encodeAscii form hn neg mag hu
  rw [hr]
  refine ⟨fun r hr => ?_, ?_⟩
  · obtain ⟨p, -, rfl⟩ := List.mem_map.mp hr
    exact Option.some_ne_none p
  · have hparts : (parts.map some).filterMap id = parts := by simp [List.filterMap_map]
    simp only [asciiNumber, hparts, hneg, hds, digitsValue_decimalDigits]

/-- Settles O41. -/
theorem decimalRoundTrip : Obligations.DecimalRoundTrip :=
  ⟨fun _ mag sign hs hk => ⟨length_encodeBcd hk sign mag, decodeBcd_encodeBcd hk hs mag⟩,
    fun form _ mag neg hn hu => asciiNumber_encodeAscii form hn neg mag hu⟩

end Sys2Proof.Machine
end

section
/-! PROOF. The decimal instructions with paging off: ADDD, SUBD, COMD (O42), PACK and UPACK (O43), SHDE (O44). -/

namespace Sys2Proof.Machine

/-! ### Operands -/

/-- The bytes of an operand replaced. -/
def DecimalField.put (f : DecimalField) (bs : List Byte) (s : State) : State :=
  storeBytes (fieldByte f.start f.right) (fun k _ => bs.getD k 0) s bs.length

theorem fieldTargets_eq (s : State) (f : DecimalField) (n : Nat) :
    s.fieldTargets f n = (List.range n).map fun k => s.wordTarget (fieldByte f.start f.right k).addr := by
  rw [State.fieldTargets, DecimalField.places, List.map_map]
  rfl

theorem DecimalField.length_lt (d1 d2 : Word) : (decimalField d1 d2).length < 32 := (d2.extractLsb' 0 5).isLt

theorem decimalBytes_congr {s t : State} (h : ∀ a, t.word a = s.word a) (f : DecimalField) (n : Nat) :
    t.decimalBytes f n = s.decimalBytes f n :=
  List.map_congr_left fun p _ => congrArg (byteOf p.odd) (h p.addr)

section
variable {s : State} (f : DecimalField) (bs : List Byte)

theorem stored_put (hw : s.memoryWf) : s.Stored (s.fieldTargets f bs.length) (f.put bs s) :=
  fieldTargets_eq s f bs.length ▸ stored_storeBytes hw _ _ (Nat.le_refl _)

theorem decimalBytes_put (hw : s.memoryWf) (hn : bs.length ≤ 65536) : (f.put bs s).decimalBytes f bs.length = bs := by
  refine List.ext_getElem (by simp [State.decimalBytes, DecimalField.places]) fun k hk hk' => ?_
  have hbyte := byte_storeBytes_inside hw (fieldByte f.start f.right) (fun k _ => bs.getD k 0) (fieldByte_inj hn) hk'
  rw [List.getD_eq_getElem _ _ hk', ← DecimalField.put] at hbyte
  simpa [State.decimalBytes, DecimalField.places] using hbyte

theorem writeDecimal_plain (h : s.plain) (hw : s.memoryWf) : ∃ ys, writeDecimal f bs s = .ok ys (f.put bs s) := by
  let q (k : Nat) := (fieldByte f.start f.right k, bs.getD k 0)
  have hzip : (f.places bs.length).zip bs = (List.range bs.length).map q := by
    have hbs : bs = (List.range bs.length).map fun k => bs.getD k 0 :=
      List.ext_getElem (by simp) fun k hk _ => by simp [List.getElem?_eq_getElem hk]
    rw [DecimalField.places]
    exact (congrArg (List.zip _) hbs).trans List.zip_map'
  obtain ⟨zs, hcheck⟩ := mapRes_still (xs := List.range bs.length)
    (f := fun k => writeByteIn .check s.dataTable (q k).1 (q k).2) (s := s) fun k _ => writeByteIn_check h ..
  obtain ⟨⟨ys, hperform⟩, -⟩ := mapRes_foldl (xs := List.range bs.length)
    (f := fun k => writeByteIn .perform s.dataTable (q k).1 (q k).2) (g := fun u k => u.storeByte (q k).1 (q k).2)
    (I := s.Stored ((List.range bs.length).map fun k => s.wordTarget (q k).1.addr))
    (fun k hk u hu => ⟨writeByteIn_perform (hu.plain h) .., hu.storeByte _ (List.mem_map_of_mem hk)⟩) (.refl hw)
  refine ⟨ys, ?_⟩
  rw [writeDecimal, hzip]
  exact inOrder_of_ok ((mapRes_map ..).trans hcheck) ((mapRes_map ..).trans hperform)

end

theorem readDecimal_plain {s : State} (h : s.plain) (f : DecimalField) (n : Nat) :
    readDecimal f n s = .ok (s.decimalBytes f n) s := mapRes_readByte_plain h ..

theorem readBcd_plain {s : State} (h : s.plain) (f : DecimalField) : readBcd f s = .ok (s.bcd f) s := by
  rw [readBcd, readDecimal_plain h]
  rfl

/-- The count of the free values replaced. -/
def State.withFree (s : State) (n : Nat) : State := { s with free := n }

@[simp] theorem reg_withFree (s : State) (n : Nat) (c : Reg) : (s.withFree n).reg c = s.reg c := rfl

theorem freshWord_eq (s : State) : freshWord s = .ok (Config.freeWord s.free) (s.withFree (s.free + 1)) := rfl

theorem readBcd_andThen {s : State} (h : s.plain) (f : DecimalField) (k : Option DecimalNumber → State → Out) :
    (readBcd f s).andThen k = k (s.bcd f) s := by
  rw [readBcd_plain h, Res.andThen_ok]

theorem readDecimal_andThen {s : State} (h : s.plain) (f : DecimalField) (n : Nat) (k : List Byte → State → Out) :
    (readDecimal f n s).andThen k = k (s.decimalBytes f n) s := by
  rw [readDecimal_plain h, Res.andThen_ok]

theorem oddBcd_of_even {s : State} (hf : (firstField s).length % 2 = 0) (hg : (secondField s).length % 2 = 0) :
    oddBcd s = false := by
  rw [oddBcd, hf, hg]
  rfl

theorem mapRes_freshWord {α : Type} : ∀ (xs : List α) (s : State),
    ∃ ws n, mapRes (fun _ s => freshWord s) xs s = .ok ws (s.withFree n) ∧ ws.length = xs.length
  | [], s => ⟨[], s.free, rfl, rfl⟩
  | _ :: xs, s => by
    obtain ⟨ws, n, hws, hlen⟩ := mapRes_freshWord xs (s.withFree (s.free + 1))
    refine ⟨Config.freeWord s.free :: ws, n, ?_, congrArg (· + 1) hlen⟩
    rw [mapRes, freshWord_eq, Res.bind_ok, hws]
    rfl

theorem anyBytes_ok (n : Nat) (s : State) : ∃ bs k, anyBytes n s = .ok bs (s.withFree k) ∧ bs.length = n := by
  obtain ⟨ws, k, hws, hlen⟩ := mapRes_freshWord (List.range n) s
  refine ⟨ws.map oddByte, k, ?_, by rw [List.length_map, hlen, List.length_range]⟩
  rw [anyBytes, hws]
  rfl

/-- The count of the free values is no part of a frame. -/
theorem State.Frame.of_setFree {rs : List Reg} {fs : List Flag} {gs : List Target} {s t : State} {n : Nat}
    (h : (s.withFree n).Frame rs fs gs t) : s.Frame rs fs gs t := by
  simpa using ((State.Frame.refl [] [] [] s).setFree n).trans h

/-! ### BCD results -/

theorem bcdSign_unsigned (unsigned neg : Bool) : (bcdSign unsigned neg == 15) = unsigned := by
  cases unsigned <;> cases neg <;> rfl

theorem bcdMinus_bcdSign (unsigned neg : Bool) : bcdMinus (bcdSign unsigned neg) = (!unsigned && neg) := by
  cases unsigned <;> cases neg <;> rfl

theorem bcdSign_ge (unsigned neg : Bool) : 10 ≤ bcdSign unsigned neg := by
  cases unsigned <;> cases neg <;> decide

theorem length_encodeBcd_half {n : Nat} (hn : n % 2 = 0) (sign : Nibble) (mag : Nat) :
    (encodeBcd n sign mag).length = n / 2 := by
  obtain ⟨k, rfl⟩ : ∃ k, n = 2 * k := ⟨n / 2, by omega⟩
  rcases Nat.eq_zero_or_pos k with rfl | hk
  · rfl
  · rw [length_encodeBcd hk]
    omega

/-- What a field holds that was written with a sign code and a magnitude. -/
theorem decodeBcd_encodeBcd_bcdSign {n : Nat} (hn : n % 2 = 0) (unsigned neg : Bool) (mag : Nat) :
    ∃ z, decodeBcd (nibbles (encodeBcd n (bcdSign unsigned neg) mag)) = some z ∧ z.mag = mag % 10 ^ (n - 1)
      ∧ (0 < n → z.unsigned = unsigned ∧ z.neg = (!unsigned && neg)) := by
  obtain ⟨k, rfl⟩ : ∃ k, n = 2 * k := ⟨n / 2, by omega⟩
  rcases Nat.eq_zero_or_pos k with rfl | hk
  · exact ⟨.zero, rfl, (Nat.mod_one mag).symm, fun h => absurd h (by decide)⟩
  · exact ⟨_, decodeBcd_encodeBcd hk (bcdSign_ge ..) mag, rfl, fun _ => ⟨bcdSign_unsigned .., bcdMinus_bcdSign ..⟩⟩

theorem bcd_put {s u : State} {f : DecimalField} {bs : List Byte} (hw : s.memoryWf) (hlen : bs.length = f.length / 2)
    (hn : bs.length ≤ 65536) (hu : ∀ a, u.word a = (f.put bs s).word a) : u.bcd f = decodeBcd (nibbles bs) := by
  rw [State.bcd, ← hlen, decimalBytes_congr hu, decimalBytes_put f bs hw hn]

/-! ### ADDD, SUBD and COMD -/

section
variable {s : State} (h : s.plain) (hw : s.memoryWf)
include h hw

theorem decimalError_plain (f : DecimalField) : ∃ t, decimalError f s = .next t ∧ t.reg .p = s.reg .p + 1
    ∧ s.Frame [.p] [] (s.fieldTargets f (f.length / 2)) t := by
  obtain ⟨bs, n, hbs, hlen⟩ := anyBytes_ok (f.length / 2) s
  obtain ⟨ys, hys⟩ := writeDecimal_plain (s := (s.withFree n)) f bs h hw
  have hput := stored_put (s := (s.withFree n)) f bs hw
  refine ⟨(f.put bs (s.withFree n)).advance, ?_, ?_, ?_⟩
  · rw [decimalError, hbs, Res.andThen_ok, hys]
    rfl
  · rw [State.reg_advance_p, hput.reg]
    rfl
  · rw [← hlen]
    exact ((hput.frameIn _ _).advanceIn (by simp)).of_setFree

/-- A sum that fits stands in the field. -/
theorem decimalSum_plain {r : Int} (zeroNeg : Bool) {f : DecimalField} (hf : f.length % 2 = 0) (hlt : f.length < 32)
    (hr : r.natAbs < 10 ^ (f.length - 1)) : ∃ t z, decimalSum r zeroNeg f s = .next t ∧ t.bcd f = some z ∧ z.mag = r.natAbs
      ∧ (0 < f.length → z.unsigned = f.unsigned) ∧ (f.unsigned = false → z.val = r)
      ∧ t.reg .p = s.reg .p + 2 ∧ s.Frame [.p] [] (s.fieldTargets f (f.length / 2)) t := by
  have hlen (sign : Nibble) := length_encodeBcd_half hf sign r.natAbs
  let neg := if r = 0 then zeroNeg else decide (r < 0)
  obtain ⟨z, hz, hmag, hsign⟩ := decodeBcd_encodeBcd_bcdSign hf f.unsigned neg r.natAbs
  obtain ⟨ys, hys⟩ := writeDecimal_plain f (encodeBcd f.length (bcdSign f.unsigned neg) r.natAbs) h hw
  have hput := stored_put f (encodeBcd f.length (bcdSign f.unsigned neg) r.natAbs) hw
  rw [Nat.mod_eq_of_lt hr] at hmag
  refine ⟨(f.put (encodeBcd f.length (bcdSign f.unsigned neg) r.natAbs) s).skip, z, ?_, ?_, hmag, fun h0 => (hsign h0).1,
    fun hu => ?_, ?_, ?_⟩
  · rw [decimalSum, if_neg (by omega)]
    exact congrArg (Res.andThen · _) hys
  · exact (bcd_put hw (hlen _) (by rw [hlen]; omega) fun a => word_setReg ..).trans hz
  · rcases Nat.eq_zero_or_pos f.length with h0 | h0
    · rw [h0] at hr
      have hr0 : r = 0 := by omega
      rw [DecimalNumber.val, hmag, hr0]
      exact ite_self _
    · rw [DecimalNumber.val, hmag, (hsign h0).2, hu]
      by_cases hr0 : r = 0
      · rw [hr0]
        exact ite_self _
      · simp only [neg, if_neg hr0, Bool.not_false, Bool.true_and, decide_eq_true_eq]
        omega
  · rw [State.reg_skip_p, hput.reg]
  · rw [← hlen]
    exact (hput.frameIn _ _).skipIn (by simp)

/-- ADDD and SUBD after their operands: a sum that fits, and one that does not. -/
theorem decimalSum_spec (r : Int) (zeroNeg : Bool) {f : DecimalField} (hf : f.length % 2 = 0) (hlt : f.length < 32) :
    (r.natAbs < 10 ^ (f.length - 1) → ∃ t z, decimalSum r zeroNeg f s = .next t ∧ t.bcd f = some z ∧ z.mag = r.natAbs
        ∧ (0 < f.length → z.unsigned = f.unsigned) ∧ (f.unsigned = false → z.val = r)
        ∧ t.reg .p = s.reg .p + 2 ∧ s.Frame [.p] [] (s.fieldTargets f (f.length / 2)) t)
      ∧ (10 ^ (f.length - 1) ≤ r.natAbs → ∃ t, decimalSum r zeroNeg f s = .next t ∧ t.reg .p = s.reg .p + 1
        ∧ s.Frame [.p] [] (s.fieldTargets f (f.length / 2)) t) := by
  refine ⟨decimalSum_plain h hw zeroNeg hf hlt, fun hr => ?_⟩
  rw [decimalSum, if_pos hr]
  exact decimalError_plain h hw f

end

section
variable {s : State} (hd : (s.reg .d).getLsbD 14 = false) (ht : (s.reg .t).getLsbD 14 = false)
include hd ht

theorem decimalGuard_of_even {odd : Bool} (hodd : odd = false) (k : Out) : decimalGuard odd s k = k := by
  rw [hodd]
  exact decimalGuard_of_not_bit14 hd ht false k

variable (h : s.plain)
include h

variable (hf : (firstField s).length % 2 = 0) (hg : (secondField s).length % 2 = 0)
include hf hg

theorem exec_addd_plain : exec .addd s = match s.bcd (firstField s), s.bcd (secondField s) with
    | some x, some y => decimalSum (x.val + y.val) false (firstField s) s
    | _, _ => decimalError (firstField s) s := by
  change execAddd s = _
  exact (decimalGuard_of_even hd ht (oddBcd_of_even hf hg) _).trans
    ((readBcd_andThen h _ _).trans (readBcd_andThen h _ _))

theorem exec_subd_plain : exec .subd s = match s.bcd (firstField s), s.bcd (secondField s) with
    | some x, some y => decimalSum (x.val - y.val) ((Config.freeWord s.free).getLsbD 0) (firstField s)
        (s.withFree (s.free + 1))
    | _, _ => decimalError (firstField s) s := by
  change execSubd s = _
  exact (decimalGuard_of_even hd ht (oddBcd_of_even hf hg) _).trans
    ((readBcd_andThen h _ _).trans (readBcd_andThen h _ _))

theorem exec_comd_plain : exec .comd s = match s.bcd (firstField s), s.bcd (secondField s) with
    | some x, some y => .next (s.setReg .a (compareWord x.val y.val)).skip
    | _, _ => .next ((s.withFree (s.free + 1)).setReg .a (Config.freeWord s.free)).advance := by
  change execComd s = _
  exact (decimalGuard_of_even hd ht (oddBcd_of_even hf hg) _).trans
    ((readBcd_andThen h _ _).trans (readBcd_andThen h _ _))

end

theorem match_of_none {α : Type} {x y : Option DecimalNumber} (k : DecimalNumber → DecimalNumber → α) (e : α) :
    x = none ∨ y = none → (match x, y with | some x, some y => k x y | _, _ => e) = e := by
  rintro (rfl | rfl)
  · rfl
  · cases x <;> rfl

/-- Settles O42. -/
theorem decimalArithmetic : Obligations.DecimalArithmetic := by
  intro s hw h hd ht hf hg
  dsimp only
  have haddd := exec_addd_plain hd ht h hf hg
  have hsubd := exec_subd_plain hd ht h hf hg
  have hcomd := exec_comd_plain hd ht h hf hg
  have hlt := DecimalField.length_lt (s.reg .a) (s.reg .d)
  refine ⟨fun x y hx hy => ?_, fun hnone => ?_⟩
  · rw [hx, hy] at haddd hsubd hcomd
    refine ⟨?_, ?_⟩
    · simp only [List.forall_mem_cons]
      refine ⟨?_, ?_, List.forall_mem_nil _⟩
      · rw [haddd]
        exact decimalSum_spec h hw _ _ hf hlt
      · rw [hsubd]
        obtain ⟨hfits, hover⟩ := decimalSum_spec (s := s.withFree (s.free + 1)) h hw (x.val - y.val)
          ((Config.freeWord s.free).getLsbD 0) hf hlt
        refine ⟨fun hr => ?_, fun hr => ?_⟩
        · obtain ⟨t, z, hrun, hz, hmag, hu, hval, hp, hframe⟩ := hfits hr
          exact ⟨t, z, hrun, hz, hmag, hu, hval, hp, hframe.of_setFree⟩
        · obtain ⟨t, hrun, hp, hframe⟩ := hover hr
          exact ⟨t, hrun, hp, hframe.of_setFree⟩
    · exact ⟨_, hcomd, by simp [State.reg_skip_eq, compareWord], by simp [State.reg_setReg],
        ((State.Frame.refl _ _ _ s).setRegIn _ (by simp)).skipIn (by simp)⟩
  · replace haddd := haddd.trans (match_of_none _ _ hnone)
    replace hsubd := hsubd.trans (match_of_none _ _ hnone)
    replace hcomd := hcomd.trans (match_of_none _ _ hnone)
    refine ⟨?_, _, hcomd, by simp [State.reg_setReg], ?_⟩
    · simp only [List.forall_mem_cons]
      rw [haddd, hsubd]
      exact ⟨decimalError_plain h hw _, decimalError_plain h hw _, List.forall_mem_nil _⟩
    · exact (((State.Frame.refl _ _ _ s).setFree _).setRegIn _ (by simp)).advanceIn (by simp)

end Sys2Proof.Machine
end

section
/-! PROOF. SHDE (O44), PACK and UPACK (O43) with paging off. -/

namespace Sys2Proof.Machine

/-! ### SHDE -/

/-- A shift to the right with rounding, or to the left, as one formula. -/
theorem decimalShift_eq (op1 op2 : Nat) (round : Bool) (m : Nat)
    [Decidable (round = true ∧ 0 < op2 - op1 ∧ 5 ≤ m / 10 ^ (op2 - op1 - 1) % 10)] :
    decimalShift op1 op2 round m = m * 10 ^ (op1 - op2) / 10 ^ (op2 - op1)
      + if round = true ∧ 0 < op2 - op1 ∧ 5 ≤ m / 10 ^ (op2 - op1 - 1) % 10 then 1 else 0 := by
  unfold decimalShift
  by_cases h : op1 < op2
  · have hpos : 0 < op2 - op1 := by omega
    rw [if_pos h, show op1 - op2 = 0 by omega, Nat.pow_zero, Nat.mul_one]
    simp only [hpos, true_and, Bool.and_eq_true, decide_eq_true_eq]
  · rw [if_neg h, if_neg (by omega), Nat.add_zero, show op2 - op1 = 0 by omega, Nat.pow_zero, Nat.div_one]

/-- The end of SHDE on a number. -/
def finishShde (x : DecimalNumber) (s : State) : Out :=
  let g := secondField s
  let q := decimalShift (firstField s).point g.point g.round x.mag
  if 10 ^ (g.length - 1) ≤ q then .next (errorReturn s)
  else (writeDecimal g (encodeBcd g.length (shiftSign x g.unsigned) q) s).andThen fun _ s => .next (skipReturn s)

section
variable {s : State} (h : s.plain)
include h

theorem exec_shde_plain (hd : (s.reg .d).getLsbD 14 = false) (ht : (s.reg .t).getLsbD 14 = false)
    (hf : (firstField s).length % 2 = 0) (hg : (secondField s).length % 2 = 0) :
    exec .shde s = match s.bcd (firstField s) with | none => .next s.advance | some x => finishShde x s := by
  change execShde s = _
  refine (decimalGuard_of_even hd ht (oddBcd_of_even hf hg) _).trans ((readBcd_andThen h _ _).trans ?_)
  cases s.bcd (firstField s) <;> rfl

/-- A magnitude that fits stands in the second field. -/
theorem finishShde_plain (hw : s.memoryWf) (x : DecimalNumber) {g : DecimalField} (hsecond : secondField s = g)
    (hg : g.length % 2 = 0) {q : Nat} (hq : decimalShift (firstField s).point g.point g.round x.mag = q)
    (hfits : q < 10 ^ (g.length - 1)) : ∃ t z, finishShde x s = .next t ∧ t.bcd g = some z ∧ z.mag = q
      ∧ (0 < g.length → z.unsigned = (x.unsigned && g.unsigned) ∧ (z.unsigned = false → z.neg = x.neg))
      ∧ t.reg .p = s.reg .p + 2 ∧ s.Frame [.p] [] (s.fieldTargets g (g.length / 2)) t := by
  have hlen := length_encodeBcd_half hg (shiftSign x g.unsigned) q
  obtain ⟨z, hz, hmag, hsign⟩ := decodeBcd_encodeBcd_bcdSign hg (x.unsigned && g.unsigned) x.neg q
  obtain ⟨ys, hys⟩ := writeDecimal_plain g (encodeBcd g.length (shiftSign x g.unsigned) q) h hw
  have hput := stored_put g (encodeBcd g.length (shiftSign x g.unsigned) q) hw
  have hlt : g.length < 32 := hsecond ▸ DecimalField.length_lt _ _
  refine ⟨(g.put (encodeBcd g.length (shiftSign x g.unsigned) q) s).skip, z, ?_, ?_, ?_, fun h0 => ?_, ?_, ?_⟩
  · simp only [finishShde, hsecond, hq]
    rw [if_neg (by omega), hys]
    rfl
  · exact (bcd_put hw hlen (by omega) fun a => word_setReg ..).trans hz
  · rw [hmag, Nat.mod_eq_of_lt hfits]
  · obtain ⟨hu, hn⟩ := hsign h0
    refine ⟨hu, fun hz => ?_⟩
    rw [hn, ← hu, hz]
    rfl
  · rw [State.reg_skip_p, hput.reg]
  · rw [← hlen]
    exact (hput.frameIn _ _).skipIn (by simp)

end

/-! ### PACK and UPACK -/

/-- The bits above an error code. -/
theorem getLsbD_append_high (w : Word) (c : BitVec 5) {j : Nat} (h5 : 5 ≤ j) (hj : j < 16) :
    (w.extractLsb' 5 11 ++ c).getLsbD j = w.getLsbD j := by
  rw [BitVec.getLsbD_append, if_neg (by omega), BitVec.getLsbD_extractLsb', decide_eq_true (show j - 5 < 11 by omega),
    Bool.true_and, Nat.add_sub_cancel' h5]

/-- The byte with an illegal code is in A and bit 15 of D, error code 2 in D. -/
theorem illegalCode_spec (f : DecimalField) (i : Nat) (s : State) :
    (illegalCode f i s).reg .a = (fieldByte f.start f.right i).addr
      ∧ ((illegalCode f i s).reg .d).getLsbD 15 = (fieldByte f.start f.right i).odd
      ∧ ((illegalCode f i s).reg .d).extractLsb' 5 10 = (s.reg .d).extractLsb' 5 10
      ∧ ((illegalCode f i s).reg .d).extractLsb' 0 5 = 2
      ∧ (illegalCode f i s).reg .p = s.reg .p + 1 ∧ s.Frame [.a, .d, .p] [] [] (illegalCode f i s) := by
  have hd : (illegalCode f i s).reg .d =
      (putBit (s.reg .d) 15 (fieldByte f.start f.right i).odd).extractLsb' 5 11 ++ (2 : BitVec 5) := by
    simp [illegalCode, errorReturn, State.setErrorCode, State.reg_advance_eq]
  have hbit (j : Nat) (h5 : 5 ≤ j) (hj : j < 16) : ((illegalCode f i s).reg .d).getLsbD j =
      if j = 15 then (fieldByte f.start f.right i).odd else (s.reg .d).getLsbD j := by
    rw [hd, ← getLsbD_putBit _ _ _ _ (by decide)]
    exact getLsbD_append_high _ _ h5 hj
  refine ⟨?_, hbit 15 (by decide) (by decide), ?_, ?_, ?_, ?_⟩
  · simp [illegalCode, errorReturn, State.setErrorCode, State.reg_advance_eq, State.reg_setReg]
  · refine BitVec.eq_of_getLsbD_eq fun j hj => ?_
    rw [BitVec.getLsbD_extractLsb', BitVec.getLsbD_extractLsb', hbit (5 + j) (by omega) (by omega), if_neg (by omega)]
  · rw [hd]
    exact BitVec.extractLsb'_append_eq_right
  · simp [illegalCode, errorReturn, State.setErrorCode, State.reg_setReg]
  · exact ((((State.Frame.refl _ _ _ s).setRegIn _ (by simp)).setRegIn _ (by simp)).setRegIn _ (by simp)).advanceIn (by simp)

/-- What PACK and UPACK leave: the bytes in the field, error code 3 when digits are lost. -/
structure Converted (g : DecimalField) (bs : List Byte) (overflow : Bool) (s t : State) : Prop where
  bytes : t.decimalBytes g bs.length = bs
  high : (t.reg .d).extractLsb' 5 11 = (s.reg .d).extractLsb' 5 11
  code : overflow = true → (t.reg .d).extractLsb' 0 5 = 3
  p : t.reg .p = if overflow then s.reg .p + 1 else s.reg .p + 2
  frame : s.Frame [.d, .p] [] (s.fieldTargets g bs.length) t

theorem reg_d_setErrorCode (s : State) (code : BitVec 5) :
    (s.setErrorCode code).reg .d = (s.reg .d).extractLsb' 5 11 ++ code := State.reg_setReg_same ..

theorem finishConversion_plain {s : State} (h : s.plain) (hw : s.memoryWf) (g : DecimalField) (bs : List Byte)
    (hn : bs.length ≤ 65536) (overflow : Bool) :
    ∃ t, finishConversion g bs overflow s = .next t ∧ Converted g bs overflow s t := by
  obtain ⟨ys, hys⟩ := writeDecimal_plain g bs h hw
  have hput := stored_put g bs hw
  have hbytes := decimalBytes_put g bs hw hn
  cases overflow with
  | true =>
    refine ⟨((g.put bs s).setErrorCode 3).advance, ?_, ?_, ?_, fun _ => ?_, ?_, ?_⟩
    · rw [finishConversion, hys]
      rfl
    · exact (decimalBytes_congr (fun a => by simp [State.setErrorCode]) g bs.length).trans hbytes
    · rw [State.reg_advance _ (by decide), reg_d_setErrorCode, hput.reg]
      exact BitVec.extractLsb'_append_eq_left
    · rw [State.reg_advance _ (by decide), reg_d_setErrorCode]
      exact BitVec.extractLsb'_append_eq_right
    · simp [State.setErrorCode, State.reg_setReg, hput.reg]
    · exact ((hput.frameIn _ _).setRegIn _ (by simp)).advanceIn (by simp)
  | false =>
    refine ⟨(((g.put bs s).withFree ((g.put bs s).free + 1)).setErrorCode
      ((Config.freeWord (g.put bs s).free).extractLsb' 0 5)).skip, ?_, ?_, ?_, fun h => absurd h Bool.false_ne_true, ?_, ?_⟩
    · rw [finishConversion, hys]
      rfl
    · exact (decimalBytes_congr (fun a => word_setReg ..) g bs.length).trans
        ((decimalBytes_congr (fun a => word_setReg ..) g bs.length).trans hbytes)
    · rw [State.reg_skip _ (by decide), reg_d_setErrorCode, reg_withFree, hput.reg]
      exact BitVec.extractLsb'_append_eq_left
    · simp [State.setErrorCode, State.reg_setReg, hput.reg]
    · exact (((hput.frameIn _ _).setFree _).setRegIn _ (by simp)).skipIn (by simp)

theorem length_encodeAscii (form : AsciiForm) (n : Nat) (neg : Bool) (mag : Nat) :
    (encodeAscii form n neg mag).length = n := by
  rcases Nat.eq_zero_or_pos n with rfl | hn
  · rfl
  have hne : n ≠ 0 := by omega
  have hlen := length_decimalDigits (asciiCapacity form n) mag
  simp only [encodeAscii, if_neg hne]
  cases form <;> simp [asciiCapacity, separateSign] at hlen ⊢ <;> omega

/-- A number written to an ASCII field reads back, cut to its digits; the unsigned form drops a minus. -/
theorem readAsciiBytes_encodeAscii_spec (form : AsciiForm) (n : Nat) (neg : Bool) (mag : Nat) :
    (∀ r ∈ readAsciiBytes form n 0 (encodeAscii form n neg mag), r ≠ none)
      ∧ (asciiNumber form (readAsciiBytes form n 0 (encodeAscii form n neg mag))).mag = mag % 10 ^ asciiCapacity form n
      ∧ (0 < n → form ≠ .unsigned → (asciiNumber form (readAsciiBytes form n 0 (encodeAscii form n neg mag))).neg = neg) := by
  rcases Nat.eq_zero_or_pos n with rfl | hn
  · have hcap : asciiCapacity form 0 = 0 := by cases form <;> rfl
    rw [hcap, Nat.pow_zero, Nat.mod_one]
    exact ⟨List.forall_mem_nil _, rfl, fun h => absurd h (Nat.lt_irrefl 0)⟩
  · by_cases hu : form = .unsigned
    · subst hu
      have hdrop : encodeAscii .unsigned n neg mag = encodeAscii .unsigned n false mag := rfl
      obtain ⟨hlegal, hnum⟩ := asciiNumber_encodeAscii .unsigned hn false mag fun _ => rfl
      rw [hdrop, hnum]
      exact ⟨hlegal, rfl, fun _ h => absurd rfl h⟩
    · obtain ⟨hlegal, hnum⟩ := asciiNumber_encodeAscii form hn neg mag fun h => absurd h hu
      rw [hnum]
      exact ⟨hlegal, rfl, fun _ _ => rfl⟩

section
variable {s : State} (h : s.plain) (hd : (s.reg .d).getLsbD 14 = false) (ht : (s.reg .t).getLsbD 14 = false)
include h hd ht

theorem exec_pack_plain (hg : (secondField s).length % 2 = 0) :
    exec .pack s = match (s.ascii (firstField s)).findIdx? (· == none) with
      | some i => .next (illegalCode (firstField s) i s)
      | none => finishPack (asciiNumber (asciiForm (firstField s).ascii) (s.ascii (firstField s))) s := by
  change execPack s = _
  exact (decimalGuard_of_even hd ht (by rw [hg]; rfl) _).trans (readDecimal_andThen h _ _ _)

theorem exec_upack_plain (hf : (firstField s).length % 2 = 0) :
    exec .upack s =
      match (bcdChecks (nibbles (s.decimalBytes (firstField s) ((firstField s).length / 2)))).findIdx? (· == false) with
      | some i => .next (illegalCode (firstField s) (i / 2) s)
      | none => finishUpack (bcdNumber (nibbles (s.decimalBytes (firstField s) ((firstField s).length / 2)))) s := by
  change execUpack s = _
  exact (decimalGuard_of_even hd ht (by rw [hf]; rfl) _).trans (readDecimal_andThen h _ _ _)

end

/-- A legal BCD field has no illegal code, and its number. -/
theorem decodeBcd_eq_some {ns : List Nibble} {x : DecimalNumber} (h : decodeBcd ns = some x) :
    (bcdChecks ns).findIdx? (· == false) = none ∧ bcdNumber ns = x := by
  unfold decodeBcd at h
  split at h
  · next hall =>
    refine ⟨?_, Option.some_inj.mp h⟩
    rw [List.findIdx?_eq_none_iff]
    intro b hb
    rw [List.all_eq_true] at hall
    rw [eq_of_beq (hall b hb)]
    rfl
  · exact absurd h (by simp)

/-- Settles O43. -/
theorem decimalConversions : Obligations.DecimalConversions := by
  intro s hw h hd ht f g codeIn illegalAt
  have hflt : f.length < 32 := DecimalField.length_lt _ _
  have hglt : g.length < 32 := DecimalField.length_lt _ _
  have hcode {bs : List Byte} {m n : Nat} {t : State} (hc : Converted g bs (decide (n ≤ m)) s t) :
      codeIn t (decide (m < n)) := by
    refine ⟨hc.high, fun hfits => hc.code (decide_eq_true (Nat.le_of_not_lt (of_decide_eq_false hfits))), ?_⟩
    rw [hc.p]
    simp only [decide_eq_true_eq]
    split <;> split <;> first | omega | rfl
  refine ⟨fun hg => ?_, fun hf => ?_⟩
  · have hexec := exec_pack_plain h hd ht hg
    refine ⟨fun i hi => ?_, fun hlegal => ?_⟩
    · rw [show (s.ascii (firstField s)).findIdx? (· == none) = some i from hi] at hexec
      exact ⟨_, hexec, illegalCode_spec f i s⟩
    · have hnone : (s.ascii (firstField s)).findIdx? (· == none) = none :=
        List.findIdx?_eq_none_iff.mpr fun r hr => beq_eq_false_iff_ne.mpr (hlegal r hr)
      rw [hnone] at hexec
      intro x
      have hlen := length_encodeBcd_half hg (bcdSign g.unsigned x.neg) x.mag
      obtain ⟨z, hz, hmag, hsign⟩ := decodeBcd_encodeBcd_bcdSign hg g.unsigned x.neg x.mag
      obtain ⟨t, hrun, hconv⟩ := finishConversion_plain h hw g (encodeBcd g.length (bcdSign g.unsigned x.neg) x.mag)
        (by omega) (decide (10 ^ (g.length - 1) ≤ x.mag))
      refine ⟨t, z, hexec.trans hrun, ?_, hmag, fun h0 => ⟨(hsign h0).1, fun hu => ?_⟩, hcode hconv, hlen ▸ hconv.frame⟩
      · rw [State.bcd, ← hlen, hconv.bytes, hz]
      · rw [(hsign h0).2, hu]
        rfl
  · have hexec := exec_upack_plain h hd ht hf
    refine ⟨fun j hj => ?_, fun x hx => ?_⟩
    · rw [show (bcdChecks (nibbles (s.decimalBytes (firstField s) ((firstField s).length / 2)))).findIdx? (· == false) =
        some j from hj] at hexec
      exact ⟨_, hexec, illegalCode_spec f (j / 2) s⟩
    · obtain ⟨hnone, hnum⟩ := decodeBcd_eq_some hx
      rw [hnone, hnum] at hexec
      intro form
      have hlen := length_encodeAscii form g.length x.neg x.mag
      obtain ⟨hlegal, hmag, hneg⟩ := readAsciiBytes_encodeAscii_spec form g.length x.neg x.mag
      obtain ⟨t, hrun, hconv⟩ := finishConversion_plain h hw g (encodeAscii form g.length x.neg x.mag)
        (by omega) (decide (10 ^ asciiCapacity form g.length ≤ x.mag))
      have hread : t.ascii g = readAsciiBytes form g.length 0 (encodeAscii form g.length x.neg x.mag) := by
        have hbytes := hconv.bytes
        rw [hlen] at hbytes
        rw [State.ascii, hbytes]
      rw [← hread] at hlegal hmag hneg
      exact ⟨t, hexec.trans hrun, hlegal, hmag, hneg, hcode hconv, hlen ▸ hconv.frame⟩

end Sys2Proof.Machine

namespace Sys2Proof
open Machine

/-- Settles O44. -/
theorem decimalShift : Obligations.DecimalShift := by
  intro s hw h hd ht hf hg
  dsimp only
  have hexec := exec_shde_plain h hd ht hf hg
  refine ⟨fun x hx => ?_, fun hx => ?_⟩
  · rw [hx] at hexec
    have hq := decimalShift_eq (firstField s).point (secondField s).point (secondField s).round x.mag
    refine ⟨fun hfits => ?_, fun hlost => ?_⟩
    · rw [hexec]
      exact finishShde_plain h hw x rfl hg hq hfits
    · rw [hexec]
      simp only [finishShde, hq]
      exact if_pos hlost
  · rw [hx] at hexec
    exact hexec

end Sys2Proof
end

section
/-! PROOF. Floating words and their values: what a described word is, and that the exact operations give it (O22, O23). -/

namespace Sys2Proof.Machine

/-! ### Values -/

/-- The value of a number. -/
def Dyadic.val (v : Dyadic) : ℚ := v.num * 2 ^ v.exp

theorem two_zpow_add (a b : ℤ) : (2 : ℚ) ^ (a + b) = 2 ^ a * 2 ^ b := zpow_add₀ two_ne_zero a b

theorem two_zpow_toNat {a : ℤ} (h : 0 ≤ a) : ((2 ^ a.toNat : ℤ) : ℚ) = 2 ^ a := by
  rw [Int.cast_pow, Int.cast_two, ← zpow_natCast, Int.toNat_of_nonneg h]

theorem Dyadic.val_eq_zero {v : Dyadic} : v.val = 0 ↔ v.num = 0 := by
  rw [Dyadic.val, mul_eq_zero, Int.cast_eq_zero, or_iff_left (zpow_ne_zero _ two_ne_zero)]

theorem Dyadic.val_add (x y : Dyadic) : (x.add y).val = x.val + y.val := by
  have hx : (0 : ℤ) ≤ x.exp - min x.exp y.exp := by omega
  have hy : (0 : ℤ) ≤ y.exp - min x.exp y.exp := by omega
  simp only [Dyadic.val, Dyadic.add, Int.cast_add, Int.cast_mul, two_zpow_toNat hx, two_zpow_toNat hy]
  rw [add_mul, mul_assoc, mul_assoc, ← two_zpow_add, ← two_zpow_add, sub_add_cancel, sub_add_cancel]

theorem Dyadic.val_neg (x : Dyadic) : x.neg.val = -x.val := by
  rw [Dyadic.val, Dyadic.neg, Int.cast_neg, neg_mul, Dyadic.val]

theorem Dyadic.val_mul (x y : Dyadic) : (x.mul y).val = x.val * y.val := by
  rw [Dyadic.val, Dyadic.mul, Int.cast_mul, two_zpow_add, Dyadic.val, Dyadic.val]
  ring

/-- Where the numerator of the quotient is an integer, the quotient is exact. -/
theorem Dyadic.div_eq {x y : Dyadic} (hy : y.num ≠ 0) (h : y.num ∣ x.num * 2 ^ 64) :
    ∃ z, x.div y = some z ∧ z.val = x.val / y.val := by
  refine ⟨{ num := (x.num * 2 ^ 64).tdiv y.num, exp := x.exp - y.exp - 64 }, ?_, ?_⟩
  · rw [Dyadic.div, if_pos]
    rw [Bool.and_eq_true, bne_iff_ne, beq_iff_eq]
    exact ⟨hy, Int.tmod_eq_zero_of_dvd h⟩
  · have hnum : (((x.num * 2 ^ 64).tdiv y.num : ℤ) : ℚ) * y.num = x.num * 2 ^ (64 : ℤ) := by
      rw [← Int.cast_mul, Int.tdiv_mul_cancel h, Int.cast_mul]
      rfl
    have hexp : (2 : ℚ) ^ (x.exp - y.exp - 64) * 2 ^ y.exp * 2 ^ (64 : ℤ) = 2 ^ x.exp := by
      rw [← two_zpow_add, ← two_zpow_add]
      congr 1
      ring
    rw [eq_div_iff (mt Dyadic.val_eq_zero.mp hy)]
    simp only [Dyadic.val]
    calc _ = (((x.num * 2 ^ 64).tdiv y.num : ℤ) : ℚ) * y.num * (2 ^ (x.exp - y.exp - 64) * 2 ^ y.exp) := by ring
      _ = x.num * (2 ^ (x.exp - y.exp - 64) * 2 ^ y.exp * 2 ^ (64 : ℤ)) := by rw [hnum]; ring
      _ = x.num * 2 ^ x.exp := by rw [hexp]

/-! ### Lengths of numbers -/

theorem bitLength_bounds {n : Nat} (h : n ≠ 0) : 2 ^ (bitLength n - 1) ≤ n ∧ n < 2 ^ bitLength n :=
  ⟨Nat.log2_self_le h, Nat.lt_log2_self⟩

theorem two_zpow_pred_le {m p : Nat} (hp : 0 < p) (h : 2 ^ (p - 1) ≤ m) (e : ℤ) : (2 : ℚ) ^ (p + e - 1) ≤ m * 2 ^ e := by
  have hm : (2 : ℚ) ^ ((p : ℤ) - 1) ≤ m := by
    rw [← Nat.cast_pred hp, zpow_natCast]
    exact_mod_cast h
  rw [show (p : ℤ) + e - 1 = p - 1 + e by ring, two_zpow_add]
  exact mul_le_mul_of_nonneg_right hm (by positivity)

theorem lt_two_zpow {m p : Nat} (h : m < 2 ^ p) (e : ℤ) : m * (2 : ℚ) ^ e < 2 ^ (p + e) := by
  have hm : (m : ℚ) < 2 ^ (p : ℤ) := by
    rw [zpow_natCast]
    exact_mod_cast h
  rw [two_zpow_add]
  exact mul_lt_mul_of_pos_right hm (by positivity)

/-- Two equal numbers have their leading bits at the same place. -/
theorem bitLength_add_eq {g m p : Nat} {e f : ℤ} (hg : g ≠ 0) (hp : 0 < p) (hm : 2 ^ (p - 1) ≤ m) (hm' : m < 2 ^ p)
    (h : (g : ℚ) * 2 ^ e = m * 2 ^ f) : bitLength g + e = p + f := by
  obtain ⟨hlo, hhi⟩ := bitLength_bounds hg
  have h1 := (two_zpow_pred_le (Nat.succ_pos _) hlo e).trans_lt (h ▸ lt_two_zpow hm' f)
  have h2 := (two_zpow_pred_le hp hm f).trans_lt (h ▸ lt_two_zpow hhi e)
  rw [zpow_lt_zpow_iff_right₀ one_lt_two] at h1 h2
  rw [show (g.log2.succ : ℤ) = bitLength g from rfl] at h1
  omega

/-- Two equal numbers differ by a power of two. -/
theorem mul_two_pow_eq {g m n : Nat} {e f : ℤ} (h : (g : ℚ) * 2 ^ e = m * 2 ^ f) (hn : e = f + n) : g * 2 ^ n = m := by
  have h0 : (2 : ℚ) ^ f ≠ 0 := zpow_ne_zero _ two_ne_zero
  rw [hn, two_zpow_add, mul_comm (2 ^ f : ℚ), ← mul_assoc, mul_left_inj' h0, zpow_natCast] at h
  exact_mod_cast h

/-- The mantissa of a number with at most `p` bits. -/
theorem exactMantissa_eq {g m p : Nat} {e f : ℤ} (hg : g ≠ 0) (hp : 0 < p) (hm : 2 ^ (p - 1) ≤ m) (hm' : m < 2 ^ p)
    (h : (g : ℚ) * 2 ^ e = m * 2 ^ f) : exactMantissa p g = some m := by
  have hlen := bitLength_add_eq hg hp hm hm' h
  rw [exactMantissa]
  by_cases hle : bitLength g ≤ p
  · rw [if_pos hle, mul_two_pow_eq h (by omega)]
  · have hg : m * 2 ^ (bitLength g - p) = g := mul_two_pow_eq h.symm (by omega)
    rw [if_neg hle, if_pos (Nat.mod_eq_zero_of_dvd (Dvd.intro_left m hg)),
      Nat.div_eq_of_eq_mul_left (Nat.two_pow_pos _) hg.symm]

/-! ### Words -/

/-- The exponent field and the mantissa of a normalised number. -/
def normalFloat (fp48 : Bool) (e m : Nat) : Prop :=
  minExponent fp48 ≤ e ∧ e ≤ maxExponent fp48 ∧ 2 ^ (mantissaBits fp48 - 1) ≤ m ∧ m < 2 ^ mantissaBits fp48

/-- The number of a normalised word. -/
def normalDyadic (fp48 neg : Bool) (e m : Nat) : Dyadic :=
  { num := signed neg m, exp := e - exponentBias fp48 - mantissaBits fp48 }

theorem getLsbD_eq_decide {n : Nat} (w : BitVec n) (i : Nat) : w.getLsbD i = decide (w.toNat / 2 ^ i % 2 = 1) :=
  Nat.testBit_eq_decide_div_mod_eq

theorem toNat_assemble48 (neg : Bool) {e m : Nat} (he : e < 32768) (hm : m < 4294967296) :
    (assembleFloat true neg e m).toNat = neg.toNat * 140737488355328 + e * 4294967296 + m := by
  rw [assembleFloat, if_pos rfl]
  simp only [toNat_append_add]
  simp
  omega

theorem toNat_assemble32 (neg : Bool) {e m : Nat} (he : e < 512) (hm : m < 8388608) (hm' : 4194304 ≤ m) :
    (assembleFloat false neg e m).toNat = neg.toNat * 2147483648 + e * 4194304 + (m - 4194304) := by
  rw [assembleFloat, if_neg Bool.false_ne_true]
  simp only [toNat_append_add]
  simp
  omega

/-- A normalised word has its number. -/
theorem unpackFloat_assembleFloat {fp48 : Bool} (neg : Bool) {e m : Nat} (h : normalFloat fp48 e m) :
    unpackFloat fp48 (assembleFloat fp48 neg e m) = some (normalDyadic fp48 neg e m) := by
  obtain ⟨hemin, hemax, hm, hm'⟩ := h
  cases fp48 with
  | true =>
    simp only [minExponent, maxExponent, mantissaBits, if_true] at hemin hemax hm hm'
    have hw := toNat_assemble48 neg (e := e) (m := m) (by omega) (by omega)
    have hneg : neg.toNat < 2 := neg.toNat_lt
    generalize assembleFloat true neg e m = w at hw
    have h0 : w ≠ 0 := by
      rintro rfl
      simp at hw
      omega
    have h31 : w.getLsbD 31 = true := by
      rw [getLsbD_eq_decide]
      simp only [decide_eq_true_eq]
      omega
    have h47 : w.getLsbD 47 = neg := by
      rw [getLsbD_eq_decide]
      cases neg <;> simp at hw ⊢ <;> omega
    have hlow : (w.extractLsb' 0 32).toNat = m := by
      rw [BitVec.extractLsb'_toNat]
      omega
    have hexp : (w.extractLsb' 32 15).toNat = e := by
      rw [BitVec.extractLsb'_toNat, Nat.shiftRight_eq_div_pow]
      omega
    rw [unpackFloat, if_neg h0, if_pos rfl, if_pos h31, h47, hlow, hexp, normalDyadic]
    refine congrArg (fun x => some (Dyadic.mk (signed neg m) x)) ?_
    change (e : ℤ) - 16416 = e - 16384 - 32
    omega
  | false =>
    simp only [minExponent, maxExponent, mantissaBits, Bool.false_eq_true, if_false] at hemin hemax hm hm'
    have hw := toNat_assemble32 neg (e := e) (m := m) (by omega) (by omega) (by omega)
    have hneg : neg.toNat < 2 := neg.toNat_lt
    generalize assembleFloat false neg e m = w at hw
    have h0 : w ≠ 0 := by
      rintro rfl
      simp at hw
      omega
    have h31 : w.getLsbD 31 = neg := by
      rw [getLsbD_eq_decide]
      cases neg <;> simp at hw ⊢ <;> omega
    have hlow : (w.extractLsb' 0 22).toNat = m - 4194304 := by
      rw [BitVec.extractLsb'_toNat]
      omega
    have hexp : (w.extractLsb' 22 9).toNat = e := by
      rw [BitVec.extractLsb'_toNat, Nat.shiftRight_eq_div_pow]
      omega
    have he : w.extractLsb' 22 9 ≠ 0 := by
      intro h
      rw [h] at hexp
      simp at hexp
      omega
    rw [unpackFloat, if_neg h0, if_neg Bool.false_ne_true, if_neg he, h31, hlow, hexp, normalDyadic,
      Nat.add_sub_cancel' (by omega)]
    refine congrArg (fun x => some (Dyadic.mk (signed neg m) x)) ?_
    change (e : ℤ) - 279 = e - 256 - 23
    omega

/-- A word that stands for a number is zero or a normalised one. -/
theorem eq_assembleFloat {fp48 : Bool} {w : BitVec 48} {v : Dyadic} (h : unpackFloat fp48 w = some v) (h0 : w ≠ 0)
    (htop : fp48 = false → w.extractLsb' 32 16 = 0) :
    ∃ neg e m, normalFloat fp48 e m ∧ w = assembleFloat fp48 neg e m := by
  have hlt := w.isLt
  rw [unpackFloat, if_neg h0] at h
  cases fp48 with
  | true =>
    rw [if_pos rfl] at h
    have h31 : w.getLsbD 31 = true := by
      by_contra h31
      rw [if_neg h31] at h
      exact Option.some_ne_none v h.symm
    rw [getLsbD_eq_decide, decide_eq_true_eq] at h31
    have hn : normalFloat true (w.toNat / 4294967296 % 32768) (w.toNat % 4294967296) := by
      simp only [normalFloat, minExponent, maxExponent, mantissaBits, if_true]
      omega
    refine ⟨decide (w.toNat / 140737488355328 % 2 = 1), _, _, hn, BitVec.eq_of_toNat_eq ?_⟩
    rw [toNat_assemble48 _ (Nat.mod_lt _ (by decide)) (Nat.mod_lt _ (by decide))]
    by_cases hs : w.toNat / 140737488355328 % 2 = 1 <;> simp [hs] <;> omega
  | false =>
    rw [if_neg Bool.false_ne_true] at h
    have he : w.extractLsb' 22 9 ≠ 0 := by
      intro he
      rw [if_pos he] at h
      exact Option.some_ne_none v h.symm
    have hexp : (w.extractLsb' 22 9).toNat = w.toNat / 4194304 % 512 := by
      rw [BitVec.extractLsb'_toNat, Nat.shiftRight_eq_div_pow]
    have he0 : w.toNat / 4194304 % 512 ≠ 0 := by
      rw [← hexp]
      exact fun h => he (BitVec.eq_of_toNat_eq h)
    have hw : w.toNat < 4294967296 := by
      have := congrArg BitVec.toNat (htop rfl)
      rw [BitVec.extractLsb'_toNat, Nat.shiftRight_eq_div_pow] at this
      simp at this
      omega
    have hn : normalFloat false (w.toNat / 4194304 % 512) (w.toNat % 4194304 + 4194304) := by
      simp only [normalFloat, minExponent, maxExponent, mantissaBits, Bool.false_eq_true, if_false]
      omega
    refine ⟨decide (w.toNat / 2147483648 % 2 = 1), _, _, hn, BitVec.eq_of_toNat_eq ?_⟩
    rw [toNat_assemble32 _ (Nat.mod_lt _ (by decide)) (by omega) (by omega)]
    by_cases hs : w.toNat / 2147483648 % 2 = 1 <;> simp [hs] <;> omega

theorem div_two_pow_mul (a : ℚ) (x : ℤ) (p : Nat) : a / 2 ^ p * 2 ^ x = a * 2 ^ (x - p) := by
  rw [zpow_sub₀ two_ne_zero, zpow_natCast]
  ring

/-- The value that R230 and R231 give a word is that of its number. -/
theorem floatValue_eq (fp48 : Bool) (w : BitVec 48) : floatValue fp48 w = (unpackFloat fp48 w).map Dyadic.val := by
  have hsign (b : Bool) (n : Nat) : (signed b n : ℚ) = (if b then -1 else 1) * n := by
    cases b <;> simp [signed]
  unfold floatValue unpackFloat
  dsimp only
  by_cases h0 : w = 0
  · rw [if_pos h0, if_pos h0]
    simp [Dyadic.val]
  · rw [if_neg h0, if_neg h0]
    cases fp48 with
    | true =>
      rw [if_pos rfl, if_pos rfl]
      split
      · rw [Option.map_some, Dyadic.val, hsign, div_two_pow_mul, sub_sub]
        rfl
      · rfl
    | false =>
      rw [if_neg Bool.false_ne_true, if_neg Bool.false_ne_true]
      split
      · rfl
      · rw [Option.map_some, Dyadic.val, hsign, div_two_pow_mul, sub_sub]
        rfl

/-! ### Packing -/

theorem natAbs_signed (neg : Bool) (n : Nat) : (signed neg n).natAbs = n := by
  cases neg <;> simp [signed]

theorem signed_neg_iff {neg : Bool} {n : Nat} (hn : 0 < n) : signed neg n < 0 ↔ neg = true := by
  cases neg with
  | false => simp [signed]
  | true => simp [signed, hn]

theorem Dyadic.abs_val (v : Dyadic) : |v.val| = v.num.natAbs * 2 ^ v.exp := by
  rw [Dyadic.val, abs_mul, abs_of_pos (zpow_pos two_pos v.exp : (0 : ℚ) < 2 ^ v.exp), Nat.cast_natAbs, Int.cast_abs]

theorem Dyadic.val_neg_iff (v : Dyadic) : v.val < 0 ↔ v.num < 0 := by
  rw [Dyadic.val, ← not_le, ← not_le, mul_nonneg_iff_of_pos_right (zpow_pos two_pos v.exp), Int.cast_nonneg_iff]

/-- The word of a number that is a number of the format. -/
theorem packFloat_of_val_eq {fp48 neg : Bool} {e m : Nat} (h : normalFloat fp48 e m) {v : Dyadic}
    (hv : v.val = (normalDyadic fp48 neg e m).val) : packFloat fp48 v = some (assembleFloat fp48 neg e m) := by
  obtain ⟨hemin, hemax, hm, hm'⟩ := h
  have hp : 0 < mantissaBits fp48 := by cases fp48 <;> decide
  have hm0 : 0 < m := (Nat.two_pow_pos _).trans_le hm
  have hnum : v.num ≠ 0 := by
    rw [Ne, ← Dyadic.val_eq_zero, hv, Dyadic.val_eq_zero, ← Int.natAbs_eq_zero, normalDyadic, natAbs_signed]
    omega
  have habs := congrArg abs hv
  rw [Dyadic.abs_val, Dyadic.abs_val, normalDyadic, natAbs_signed] at habs
  have hg : v.num.natAbs ≠ 0 := by omega
  have hlen := bitLength_add_eq hg hp hm hm' habs
  dsimp only at hlen
  have hneg : decide (v.num < 0) = neg := by
    rw [Bool.eq_iff_iff, decide_eq_true_iff, ← Dyadic.val_neg_iff, hv, Dyadic.val_neg_iff, normalDyadic,
      signed_neg_iff hm0]
  have hexp : v.exp + bitLength v.num.natAbs + exponentBias fp48 = e := by omega
  rw [packFloat, if_neg hnum]
  simp only [hexp]
  rw [if_pos ⟨hemin, hemax⟩, exactMantissa_eq hg hp hm hm' habs, hneg, Int.toNat_natCast]
  rfl

theorem packFloat_of_unpack {fp48 : Bool} {r : BitVec 48} {d v : Dyadic} (h : unpackFloat fp48 r = some d)
    (htop : fp48 = false → r.extractLsb' 32 16 = 0) (hv : v.val = d.val) : packFloat fp48 v = some r := by
  by_cases h0 : r = 0
  · subst h0
    rw [unpackFloat, if_pos rfl, Option.some_inj] at h
    rw [packFloat, if_pos]
    rw [← Dyadic.val_eq_zero, hv, Dyadic.val_eq_zero, ← h]
  · obtain ⟨neg, e, m, hn, rfl⟩ := eq_assembleFloat h h0 htop
    rw [unpackFloat_assembleFloat neg hn, Option.some_inj] at h
    exact packFloat_of_val_eq hn (h ▸ hv)

theorem unpackFloat_natAbs_lt {fp48 : Bool} {w : BitVec 48} {v : Dyadic} (h : unpackFloat fp48 w = some v) :
    v.num.natAbs < 4294967296 := by
  unfold unpackFloat at h
  split at h
  · cases h
    decide
  · split at h
    · split at h
      · cases h
        rw [natAbs_signed]
        exact BitVec.isLt _
      · cases h
    · split at h
      · cases h
      · cases h
        rw [natAbs_signed]
        have := (w.extractLsb' 0 22).isLt
        omega

/-- A quotient that is a number of the format has an exact numerator. -/
theorem dvd_of_val_mul_eq {x y d : Dyadic} (hy : y.num.natAbs < 4294967296) (hd : d.num.natAbs < 4294967296)
    (h : d.val * y.val = x.val) : y.num ∣ x.num * 2 ^ 64 := by
  by_cases hx : x.num = 0
  · rw [hx, zero_mul]
    exact dvd_zero _
  have habs : ((d.num.natAbs * y.num.natAbs : ℕ) : ℚ) * 2 ^ (d.exp + y.exp) = x.num.natAbs * 2 ^ x.exp := by
    have := congrArg abs h
    rw [abs_mul, Dyadic.abs_val, Dyadic.abs_val, Dyadic.abs_val] at this
    rw [two_zpow_add, Nat.cast_mul, ← this]
    ring
  have hprod : d.num.natAbs * y.num.natAbs < 2 ^ 64 := (Nat.mul_lt_mul'' hd hy).trans_eq (by decide)
  have hexp : x.exp < d.exp + y.exp + 64 := by
    have hlt := lt_two_zpow hprod (d.exp + y.exp)
    rw [habs] at hlt
    have hle := two_zpow_pred_le (m := x.num.natAbs) (p := 1) (by decide) (by omega) x.exp
    have := hle.trans_lt hlt
    rw [zpow_lt_zpow_iff_right₀ one_lt_two] at this
    push_cast at this
    omega
  have hscaled : ((d.num.natAbs * y.num.natAbs : ℕ) : ℚ) * 2 ^ (d.exp + y.exp) =
      ((x.num.natAbs * 2 ^ 64 : ℕ) : ℚ) * 2 ^ (x.exp - 64) := by
    rw [habs, Nat.cast_mul, mul_assoc, show ((2 ^ 64 : ℕ) : ℚ) = 2 ^ (64 : ℤ) by norm_num, ← two_zpow_add,
      add_sub_cancel]
  have hnat := mul_two_pow_eq (n := (d.exp + y.exp - (x.exp - 64)).toNat) hscaled (by omega)
  rw [← Int.natAbs_dvd_natAbs, Int.natAbs_mul]
  exact ⟨d.num.natAbs * 2 ^ (d.exp + y.exp - (x.exp - 64)).toNat, by
    rw [show (2 ^ 64 : ℤ).natAbs = 2 ^ 64 by rfl, ← hnat]
    ring⟩

end Sys2Proof.Machine
end

section
/-! PROOF. The floating point instructions (O22, O23). -/

namespace Sys2Proof.Machine

/-! ### Exact results -/

theorem unpackFloat_of_floatValue {fp48 : Bool} {w : BitVec 48} {x : ℚ} (h : floatValue fp48 w = some x) :
    ∃ v, unpackFloat fp48 w = some v ∧ v.val = x := by
  rw [floatValue_eq] at h
  exact Option.map_eq_some_iff.mp h

/-- The value of the exact result of an operation. -/
def fpValue (op : FpOp) (x y : ℚ) : ℚ :=
  match op with
  | .add => x + y
  | .sub => x - y
  | .mul => x * y
  | .div => x / y

/-- The exact result has the value of the operation; a quotient where it is a number of the format. -/
theorem exactResult_val {fp48 : Bool} {op : FpOp} {m r : BitVec 48} {x y d : Dyadic} (hy : unpackFloat fp48 m = some y)
    (hd : unpackFloat fp48 r = some d) (hy0 : op = .div → y.num ≠ 0) (hr : d.val = fpValue op x.val y.val) :
    ∃ z, exactResult op x y = some z ∧ z.val = d.val := by
  cases op with
  | add => exact ⟨_, rfl, (Dyadic.val_add x y).trans hr.symm⟩
  | sub => exact ⟨_, rfl, by rw [Dyadic.val_add, Dyadic.val_neg, hr, ← sub_eq_add_neg]; rfl⟩
  | mul => exact ⟨_, rfl, (Dyadic.val_mul x y).trans hr.symm⟩
  | div =>
    have hnum := hy0 rfl
    have hprod : d.val * y.val = x.val := by
      rw [hr]
      exact div_mul_cancel₀ _ (mt Dyadic.val_eq_zero.mp hnum)
    obtain ⟨z, hz, hval⟩ := Dyadic.div_eq hnum (dvd_of_val_mul_eq (unpackFloat_natAbs_lt hy) (unpackFloat_natAbs_lt hd) hprod)
    exact ⟨z, hz, hval.trans hr.symm⟩

/-- The operation where R233 (a) fixes its result. -/
theorem floatOp_exact {fp48 : Bool} {op : FpOp} {acc m r : BitVec 48} {x y : ℚ} (tg : Bool)
    (hx : floatValue fp48 acc = some x) (hy : floatValue fp48 m = some y) (htop : fp48 = false → r.extractLsb' 32 16 = 0)
    (hy0 : op = .div → y ≠ 0) (hr : floatValue fp48 r = some (fpValue op x y)) : floatOp op fp48 acc m tg = (r, false) := by
  obtain ⟨vx, hvx, rfl⟩ := unpackFloat_of_floatValue hx
  obtain ⟨vy, hvy, rfl⟩ := unpackFloat_of_floatValue hy
  obtain ⟨d, hd, hdr⟩ := unpackFloat_of_floatValue hr
  obtain ⟨z, hz, hval⟩ := exactResult_val hvy hd (fun h => mt Dyadic.val_eq_zero.mpr (hy0 h)) hdr
  have hexact : exactFloat op fp48 acc m = some r := by
    rw [exactFloat, hvx, Option.bind_some, hvy, Option.bind_some, hz, Option.bind_some, packFloat_of_unpack hd htop hval]
  have hdiv : ¬(op = .div ∧ m = 0) := by
    rintro ⟨hop, rfl⟩
    have h0 : vy.val = 0 := by
      rw [unpackFloat, if_pos rfl, Option.some_inj] at hvy
      rw [← hvy, Dyadic.val_eq_zero]
    exact hy0 hop h0
  rw [floatOp, if_neg hdiv, hexact]

/-! ### The accumulator -/

/-- A double word is its three words. -/
theorem append_words (w : BitVec 48) : w.extractLsb' 32 16 ++ w.extractLsb' 16 16 ++ w.extractLsb' 0 16 = w := by
  have := w.isLt
  refine BitVec.eq_of_toNat_eq ?_
  simp only [toNat_append_add, BitVec.extractLsb'_toNat, Nat.shiftRight_eq_div_pow]
  omega

@[simp] theorem State.setAccumulator_cfg (s : State) (w : BitVec 48) : (s.setAccumulator w).cfg = s.cfg := by
  unfold State.setAccumulator
  dsimp only
  split <;> rfl

theorem State.accumulator_setAccumulator {s : State} {w : BitVec 48} (h : s.cfg.fp48 = false → w.extractLsb' 32 16 = 0) :
    (s.setAccumulator w).accumulator = w := by
  rw [State.accumulator, State.setAccumulator_cfg]
  refine Eq.trans ?_ (append_words w)
  unfold State.setAccumulator
  dsimp only
  split
  · simp [State.reg_setReg]
  · next hf =>
    rw [h (by simpa using hf)]
    simp [State.reg_setReg]

theorem State.accumulator_advance (s : State) : s.advance.accumulator = s.accumulator := by
  simp [State.accumulator, State.reg_advance_eq]

theorem State.reg_p_setAccumulator (s : State) (w : BitVec 48) : (s.setAccumulator w).reg .p = s.reg .p := by
  unfold State.setAccumulator
  dsimp only
  split <;> simp [State.reg_setReg]

theorem State.Frame.setAccumulatorIn {rs : List Reg} {fs : List Flag} {gs : List Target} {s t : State}
    (h : s.Frame rs fs gs t) (w : BitVec 48) (hrs : floatRegs t.cfg.fp48 ⊆ rs) : s.Frame rs fs gs (t.setAccumulator w) := by
  unfold State.setAccumulator
  dsimp only
  split
  · next hf =>
    rw [hf] at hrs
    exact ((h.setRegIn _ (hrs (by simp [floatRegs]))).setRegIn _ (hrs (by simp [floatRegs]))).setRegIn _
      (hrs (by simp [floatRegs]))
  · next hf =>
    rw [Bool.not_eq_true] at hf
    rw [hf] at hrs
    exact (h.setRegIn _ (hrs (by simp [floatRegs]))).setRegIn _ (hrs (by simp [floatRegs]))

theorem readFloat_accessed {m : MemOperand} {s t : State} {w : BitVec 48} (h : readFloat m s = .ok w t) : s.Accessed t := by
  obtain ⟨p, u, hp, h⟩ := Res.bind_eq_ok h
  refine (effAddr_accessed hp).trans ?_
  split at h
  · obtain ⟨v, z, hv, h⟩ := Res.bind_eq_ok h
    cases h
    exact readThree_accessed hv
  · obtain ⟨v, z, hv, h⟩ := Res.bind_eq_ok h
    cases h
    exact readTwo_accessed hv

theorem State.Accessed.accumulator {s t : State} (h : s.Accessed t) : t.accumulator = s.accumulator := by
  rw [State.accumulator, State.accumulator, h.cfg, h.reg, h.reg, h.reg]

/-! ### FAD, FSB, FMU and FDV -/

/-- The state after a result. -/
def State.afterFloat (u : State) (r : BitVec 48) : State := (u.setAccumulator r).advance

/-- The state after an error of FDV, before its code. -/
def State.afterFloatError (u : State) : State := u.setAnyAccumulator.advance.setFlag .z true

section
variable {s u : State} (hw : s.memoryWf) (acc : s.Accessed u)
include hw acc

theorem afterFloat_spec (r : BitVec 48) : (u.afterFloat r).reg .p = s.reg .p + 1
    ∧ s.Frame (.p :: floatRegs s.cfg.fp48) [] [] (u.afterFloat r) := by
  refine ⟨?_, ?_⟩
  · rw [State.afterFloat, State.reg_advance_p, State.reg_p_setAccumulator, acc.reg]
  · exact ((acc.frame hw _ _).setAccumulatorIn r (acc.cfg ▸ List.subset_cons_self _ _)).advanceIn List.mem_cons_self

theorem afterFloatError_spec : u.afterFloatError.flag .z = true ∧ u.afterFloatError.reg .p = s.reg .p + 1
    ∧ s.Frame (.p :: floatRegs s.cfg.fp48) [.z] [] u.afterFloatError := by
  refine ⟨by simp [State.afterFloatError], ?_, ?_⟩
  · simp [State.afterFloatError, State.setAnyAccumulator, State.reg_p_setAccumulator, acc.reg]
  · exact (((((acc.frame hw _ _).setFree _).setAccumulatorIn _ (acc.cfg ▸ List.subset_cons_self _ _)).advanceIn
      List.mem_cons_self).setFlagIn true List.mem_cons_self)

end

/-- The result and the error of an operation on the accumulator. -/
def State.floatResult (s : State) (op : FpOp) (w : BitVec 48) : BitVec 48 × Bool :=
  floatOp op s.cfg.fp48 s.accumulator w (s.flag .tg)

theorem State.Accessed.floatResult {s u : State} (acc : s.Accessed u) (op : FpOp) (w : BitVec 48) :
    u.floatResult op w = s.floatResult op w := by
  rw [State.floatResult, acc.cfg, acc.accumulator, acc.flag, State.floatResult]

section
variable {m : MemOperand} {s u : State} {w : BitVec 48} (h : readFloat m s = .ok w u)
include h

theorem floatArith_of_read (op : FpOp) : floatArith op m s = .next (u.afterFloat (s.floatResult op w).1) := by
  rw [floatArith, h, Res.andThen_ok, ← (readFloat_accessed h).floatResult]
  rfl

theorem execFdv_of_read : execFdv m s = .next (if (s.floatResult .div w).2 then u.afterFloatError.raiseAfter 5
    else u.afterFloat (s.floatResult .div w).1) := by
  rw [execFdv, h, Res.andThen_ok, ← (readFloat_accessed h).floatResult]
  rfl

end

/-- The instruction of an operation. -/
def fpInstr (op : FpOp) (m : MemOperand) : Instr :=
  match op with
  | .add => .fad m
  | .sub => .fsb m
  | .mul => .fmu m
  | .div => .fdv m

section
variable {m : MemOperand} {s u : State} {w : BitVec 48} (h : readFloat m s = .ok w u)
include h

theorem exec_fpInstr_of_no_error (op : FpOp) (herr : op = .div → (s.floatResult .div w).2 = false) :
    exec (fpInstr op m) s = .next (u.afterFloat (s.floatResult op w).1) := by
  cases op with
  | add => exact floatArith_of_read h .add
  | sub => exact floatArith_of_read h .sub
  | mul => exact floatArith_of_read h .mul
  | div => exact (execFdv_of_read h).trans (by rw [herr rfl]; rfl)

theorem exec_fdv_of_error (herr : (s.floatResult .div w).2 = true) :
    exec (.fdv m) s = .next (u.afterFloatError.raiseAfter 5) := (execFdv_of_read h).trans (by rw [herr]; rfl)

/-- An operation whose exact result is a number of the format. -/
theorem exec_fpInstr_exact (hw : s.memoryWf) {op : FpOp} {r : BitVec 48} {x y : ℚ}
    (hx : floatValue s.cfg.fp48 s.accumulator = some x) (hy : floatValue s.cfg.fp48 w = some y)
    (htop : s.cfg.fp48 = false → r.extractLsb' 32 16 = 0) (hy0 : op = .div → y ≠ 0)
    (hr : floatValue s.cfg.fp48 r = some (fpValue op x y)) : ∃ t, exec (fpInstr op m) s = .next t ∧ t.accumulator = r
      ∧ t.reg .p = s.reg .p + 1 ∧ s.Frame (.p :: floatRegs s.cfg.fp48) [] [] t := by
  have acc := readFloat_accessed h
  have hres : s.floatResult op w = (r, false) := floatOp_exact _ hx hy htop hy0 hr
  refine ⟨u.afterFloat r, ?_, ?_, afterFloat_spec hw acc r⟩
  · rw [exec_fpInstr_of_no_error h op fun hop => by rw [← hop, hres], hres]
  · rw [State.afterFloat, State.accumulator_advance, State.accumulator_setAccumulator (acc.cfg ▸ htop)]

end

/-- Settles O22. -/
theorem floatArithmetic : Obligations.FloatArithmetic := by
  refine ⟨fun m s u w r x y hw h hx hy htop => ⟨?_, fun h0 => ?_⟩, fun m s u w hw h => ⟨?_, ?_⟩, fun m s => ?_⟩
  · have hexact (op : FpOp) (hy0 : op = .div → y ≠ 0) := exec_fpInstr_exact h hw (op := op) hx hy htop hy0
    have hdiv : ∀ p ∈ (if y = 0 then [] else [(Instr.fdv m, x / y)]), floatValue s.cfg.fp48 r = some p.2 →
        ∃ t, exec p.1 s = .next t ∧ t.accumulator = r ∧ t.reg .p = s.reg .p + 1
          ∧ s.Frame (.p :: floatRegs s.cfg.fp48) [] [] t := by
      split
      · exact List.forall_mem_nil _
      · next hne =>
        rw [List.forall_mem_singleton]
        exact hexact .div fun _ => hne
    rw [List.forall_mem_append]
    refine ⟨?_, hdiv⟩
    simp only [List.forall_mem_cons]
    exact ⟨hexact .add nofun, hexact .sub nofun, hexact .mul nofun, List.forall_mem_nil _⟩
  · have herr : (s.floatResult .div w).2 = true := by rw [State.floatResult, floatOp, if_pos ⟨rfl, h0⟩]
    exact ⟨_, exec_fdv_of_error h herr, afterFloatError_spec hw (readFloat_accessed h)⟩
  · simp only [List.forall_mem_cons]
    have hrun (op : FpOp) (hop : op ≠ .div) : ∃ t, exec (fpInstr op m) s = .next t ∧ t.reg .p = s.reg .p + 1
        ∧ s.Frame (.p :: floatRegs s.cfg.fp48) [] [] t :=
      ⟨_, exec_fpInstr_of_no_error h op (absurd · hop), afterFloat_spec hw (readFloat_accessed h) _⟩
    exact ⟨hrun .add nofun, hrun .sub nofun, hrun .mul nofun, List.forall_mem_nil _⟩
  · cases herr : (s.floatResult .div w).2 with
    | true =>
      obtain ⟨hz, hp, hframe⟩ := afterFloatError_spec hw (readFloat_accessed h)
      exact ⟨_, hp, .inr ⟨exec_fdv_of_error h herr, hz, hframe⟩⟩
    | false =>
      obtain ⟨hp, hframe⟩ := afterFloat_spec hw (readFloat_accessed h) (s.floatResult .div w).1
      exact ⟨_, hp, .inl ⟨exec_fpInstr_of_no_error h .div fun _ => herr, hframe⟩⟩
  · have ends {i : Instr} {k : BitVec 48 → State → Out} (hexec : exec i s = (readFloat m s).andThen k) :
        (readFloat m s).Ends i s := Res.ends_of_andThen (readFloat_refuses ..) hexec fun _ h => h
    simp only [List.forall_mem_cons]
    exact ⟨ends rfl, ends rfl, ends rfl, ends rfl, List.forall_mem_nil _⟩

end Sys2Proof.Machine
end

section
/-! PROOF. NLZ and DNZ (O23). -/

namespace Sys2Proof.Machine

/-! ### Conversion to a floating word -/

theorem signed_natAbs (n : ℤ) : signed (decide (n < 0)) n.natAbs = n := by
  unfold signed
  simp only [decide_eq_true_eq]
  omega

theorem signed_mul (neg : Bool) (g n : Nat) : signed neg (g * n) = signed neg g * n := by
  cases neg <;> simp [signed]

theorem assembleFloat_top {neg : Bool} {e m : Nat} (h : normalFloat false e m) :
    (assembleFloat false neg e m).extractLsb' 32 16 = 0 := by
  obtain ⟨hemin, hemax, hm, hm'⟩ := h
  simp only [minExponent, maxExponent, mantissaBits, Bool.false_eq_true, if_false] at hemin hemax hm hm'
  have hneg : neg.toNat < 2 := neg.toNat_lt
  refine BitVec.eq_of_toNat_eq ?_
  rw [BitVec.extractLsb'_toNat, Nat.shiftRight_eq_div_pow, toNat_assemble32 neg (by omega) (by omega) (by omega)]
  change _ = 0
  omega

/-- A number of at most 16 bits is a number of both formats, for every scaling. -/
theorem packFloat_word (fp48 : Bool) {v : Dyadic} (hg : v.num.natAbs < 2 ^ 16) (hlo : -200 ≤ v.exp) (hhi : v.exp ≤ 200) :
    ∃ r, packFloat fp48 v = some r ∧ floatValue fp48 r = some v.val ∧ (fp48 = false → r.extractLsb' 32 16 = 0) := by
  by_cases h0 : v.num = 0
  · refine ⟨0, if_pos h0, ?_, fun _ => rfl⟩
    rw [floatValue, Dyadic.val_eq_zero.mpr h0]
    rfl
  have hg0 : v.num.natAbs ≠ 0 := Int.natAbs_ne_zero.mpr h0
  obtain ⟨hk, hk'⟩ := bitLength_bounds hg0
  have hlen : bitLength v.num.natAbs - 1 < 16 := (Nat.pow_lt_pow_iff_right (by decide)).mp (hk.trans_lt hg)
  have hpos : 0 < bitLength v.num.natAbs := Nat.succ_pos _
  generalize bitLength v.num.natAbs = k at hk hk' hlen hpos
  have hp : 23 ≤ mantissaBits fp48 := by cases fp48 <;> decide
  have hbias : 256 ≤ exponentBias fp48 := by cases fp48 <;> decide
  have hmin : minExponent fp48 ≤ 1 := by cases fp48 <;> decide
  have hmax : exponentBias fp48 + 255 ≤ maxExponent fp48 := by cases fp48 <;> decide
  have hpow : 2 ^ k * 2 ^ (mantissaBits fp48 - k) = 2 ^ mantissaBits fp48 := by
    rw [← Nat.pow_add, Nat.add_sub_cancel' (by omega)]
  have hpow' : 2 ^ (k - 1) * 2 ^ (mantissaBits fp48 - k) = 2 ^ (mantissaBits fp48 - 1) := by
    rw [← Nat.pow_add]
    congr 1
    omega
  have he : (((v.exp + k + exponentBias fp48).toNat : ℕ) : ℤ) = v.exp + k + exponentBias fp48 :=
    Int.toNat_of_nonneg (by omega)
  have hn : normalFloat fp48 (v.exp + k + exponentBias fp48).toNat (v.num.natAbs * 2 ^ (mantissaBits fp48 - k)) := by
    refine ⟨by omega, by omega, ?_, ?_⟩
    · rw [← hpow']
      exact Nat.mul_le_mul_right _ hk
    · rw [← hpow]
      exact Nat.mul_lt_mul_of_pos_right hk' (Nat.two_pow_pos _)
  have hval : v.val = (normalDyadic fp48 (decide (v.num < 0)) (v.exp + k + exponentBias fp48).toNat
      (v.num.natAbs * 2 ^ (mantissaBits fp48 - k))).val := by
    have hexp : v.exp = ((mantissaBits fp48 - k : ℕ) : ℤ)
        + (v.exp + k + exponentBias fp48 - exponentBias fp48 - mantissaBits fp48) := by omega
    rw [normalDyadic, Dyadic.val, Dyadic.val, signed_mul, signed_natAbs, he]
    push_cast
    rw [mul_assoc, ← zpow_natCast, ← two_zpow_add, ← hexp]
  refine ⟨_, packFloat_of_val_eq hn hval, ?_, fun hf => ?_⟩
  · rw [floatValue_eq, unpackFloat_assembleFloat _ hn, Option.map_some, hval]
  · subst hf
    exact assembleFloat_top hn

/-- The word of NLZ. -/
theorem normalize_spec (fp48 : Bool) (a : Word) (sc : BitVec 8) :
    floatValue fp48 (normalize fp48 a sc) = some ((a.toInt : ℚ) * 2 ^ (sc.toInt - 16))
      ∧ (fp48 = false → (normalize fp48 a sc).extractLsb' 32 16 = 0) := by
  have ha := toInt_word_bounds a
  have hsc := BitVec.le_toInt sc
  have hsc' := BitVec.toInt_lt (x := sc)
  obtain ⟨r, hr, hval, htop⟩ := packFloat_word fp48 (v := { num := a.toInt, exp := sc.toInt - 16 })
    (by simp only; omega) (by simp only; omega) (by simp only; omega)
  rw [normalize, hr]
  exact ⟨hval, htop⟩

/-! ### Conversion from a floating word -/

theorem Dyadic.trunc_eq (v : Dyadic) : v.trunc = integerPart v.val := by
  have hpos : (0 : ℚ) < 2 ^ v.exp := zpow_pos two_pos _
  have hsign : 0 ≤ v.val ↔ 0 ≤ v.num := by
    rw [Dyadic.val, mul_nonneg_iff_of_pos_right hpos, Int.cast_nonneg_iff]
  rw [Dyadic.trunc, integerPart]
  by_cases he : 0 ≤ v.exp
  · have hval : v.val = ((v.num * 2 ^ v.exp.toNat : ℤ) : ℚ) := by
      rw [Dyadic.val, Int.cast_mul, two_zpow_toNat he]
    rw [if_pos he, hval, Int.floor_intCast, Int.ceil_intCast, ite_self]
  · have hval : v.val = (v.num : ℚ) / ((2 ^ (-v.exp).toNat : ℕ) : ℚ) := by
      rw [Dyadic.val, div_eq_mul_inv, Nat.cast_pow, Nat.cast_two, ← zpow_natCast, Int.toNat_of_nonneg (by omega), ← zpow_neg,
        neg_neg]
    rw [if_neg he, if_congr hsign rfl rfl, hval, Rat.floor_intCast_div_natCast, Rat.ceil_intCast_div_natCast]
    split
    · next hn =>
      rw [Int.tdiv_eq_ediv_of_nonneg hn]
      push_cast
      rfl
    · next hn =>
      rw [← neg_neg v.num, Int.neg_tdiv, Int.tdiv_eq_ediv_of_nonneg (by omega)]
      push_cast
      rw [neg_neg]

/-! ### NLZ and DNZ -/

/-- The state of DNZ before A is loaded. -/
def State.dnzStart (s : State) : State := (s.setReg .d 0).setAnyT48.advance

theorem setAnyT48_eq (s : State) : s.setAnyT48 = if s.cfg.fp48 then (s.withFree (s.free + 1)).setReg .t
    (Config.freeWord s.free) else s := rfl

theorem dnzStart_spec (s : State) : s.dnzStart.reg .d = 0 ∧ s.dnzStart.reg .p = s.reg .p + 1
    ∧ s.Frame (.p :: floatRegs s.cfg.fp48) [] [] s.dnzStart := by
  have hd : Reg.d ∈ .p :: floatRegs s.cfg.fp48 := by cases s.cfg.fp48 <;> decide
  have hframe := (State.Frame.refl (.p :: floatRegs s.cfg.fp48) [] [] s).setRegIn (0 : Word) hd
  rw [State.dnzStart, setAnyT48_eq]
  split
  · next hf =>
    have ht : Reg.t ∈ .p :: floatRegs s.cfg.fp48 := by
      rw [show s.cfg.fp48 = true from hf]
      decide
    exact ⟨by simp [State.reg_advance_eq, State.reg_setReg], by simp [State.reg_setReg],
      ((hframe.setFree _).setRegIn _ ht).advanceIn List.mem_cons_self⟩
  · exact ⟨by simp [State.reg_advance_eq], by simp [State.reg_setReg], hframe.advanceIn List.mem_cons_self⟩

section
variable {s u : State} (hd : u.reg .d = 0) (hp : u.reg .p = s.reg .p + 1)
  (hframe : s.Frame (.p :: floatRegs s.cfg.fp48) [] [] u) (w : Word)
include hd hp hframe

/-- DNZ after A is loaded. -/
theorem dnz_load : (u.setReg .a w).reg .d = 0 ∧ (u.setReg .a w).reg .p = s.reg .p + 1
    ∧ s.Frame (.p :: floatRegs s.cfg.fp48) [] [] (u.setReg .a w) := by
  have ha : Reg.a ∈ .p :: floatRegs s.cfg.fp48 := by cases s.cfg.fp48 <;> decide
  exact ⟨by simp [State.reg_setReg, hd], by simp [State.reg_setReg, hp], hframe.setRegIn w ha⟩

/-- DNZ after an error, before its code. -/
theorem dnz_error : ((u.setReg .a w).setFlag .z true).flag .z = true ∧ ((u.setReg .a w).setFlag .z true).reg .d = 0
    ∧ ((u.setReg .a w).setFlag .z true).reg .p = s.reg .p + 1
    ∧ s.Frame (.p :: floatRegs s.cfg.fp48) [.z] [] ((u.setReg .a w).setFlag .z true) := by
  obtain ⟨hd', hp', hframe'⟩ := dnz_load hd hp hframe w
  exact ⟨State.flag_setFlag_same .., by simpa using hd', by simpa using hp',
    (hframe'.weaken (List.Subset.refl _) (List.nil_subset _) (List.Subset.refl _)).setFlagIn true List.mem_cons_self⟩

end

section
variable {sc : BitVec 8} {s : State} {i : ℤ}

theorem exec_dnz_fits (h : denormalize s.cfg.fp48 s.accumulator sc = some i) (hi : i.natAbs ≤ 32767) :
    exec (.dnz sc) s = .next (s.dnzStart.setReg .a (BitVec.ofInt 16 i)) := by
  change execDnz sc s = _
  simp only [execDnz, h]
  exact if_neg (by omega)

theorem exec_dnz_overflow (h : denormalize s.cfg.fp48 s.accumulator sc = some i) (hi : 32767 < i.natAbs) :
    exec (.dnz sc) s = .next ((((s.dnzStart.withFree (s.dnzStart.free + 1)).setReg .a
      (Config.freeWord s.dnzStart.free)).setFlag .z true).raiseAfter 5) := by
  change execDnz sc s = _
  simp only [execDnz, h]
  exact if_pos hi

theorem exec_dnz_other (h : denormalize s.cfg.fp48 s.accumulator sc = none) :
    ∃ r : Word × Bool, exec (.dnz sc) s = .next (if r.2 then ((s.dnzStart.setReg .a r.1).setFlag .z true).raiseAfter 5
      else s.dnzStart.setReg .a r.1) := by
  refine ⟨Config.dnzOther s.cfg.fp48 s.accumulator sc (s.flag .tg), ?_⟩
  change execDnz sc s = _
  simp only [execDnz, h]
  rfl

end

theorem denormalize_eq {fp48 : Bool} {acc : BitVec 48} {v : ℚ} (h : floatValue fp48 acc = some v) :
    denormalize fp48 acc 0xF0 = some (integerPart v) := by
  obtain ⟨d, hd, rfl⟩ := unpackFloat_of_floatValue h
  rw [denormalize, if_pos (show (0xF0 : BitVec 8) = 0xF0#8 from rfl), hd, Option.map_some, Dyadic.trunc_eq]

theorem toInt_ofInt_word {i : ℤ} (h : i.natAbs ≤ 32767) : (BitVec.ofInt 16 i).toInt = i := by
  rw [BitVec.toInt_ofInt, Int.bmod_eq_of_le] <;> omega

/-- Settles O23. -/
theorem floatConversions : Obligations.FloatConversions := by
  refine ⟨fun sc s hw => ?_, fun sc s hw => ⟨fun v hsc hv => ⟨fun hi => ?_, fun hi => ?_⟩, ?_⟩⟩
  · obtain ⟨hval, htop⟩ := normalize_spec s.cfg.fp48 (s.reg .a) sc
    obtain ⟨hp, hframe⟩ := afterFloat_spec hw (State.Accessed.refl s) (normalize s.cfg.fp48 (s.reg .a) sc)
    refine ⟨s.afterFloat (normalize s.cfg.fp48 (s.reg .a) sc), rfl, ?_, hp, hframe⟩
    rw [State.afterFloat, State.accumulator_advance, State.accumulator_setAccumulator htop, hval]
  · obtain ⟨hd, hp, hframe⟩ := dnzStart_spec s
    obtain ⟨hd, hp, hframe⟩ := dnz_load hd hp hframe (BitVec.ofInt 16 (integerPart v))
    refine ⟨_, exec_dnz_fits (hsc ▸ denormalize_eq hv) hi, ?_, hd, hp, hframe⟩
    rw [State.reg_setReg_same, toInt_ofInt_word hi]
  · obtain ⟨hd, hp, hframe⟩ := dnzStart_spec s
    exact ⟨_, exec_dnz_overflow (hsc ▸ denormalize_eq hv) hi,
      dnz_error (u := s.dnzStart.withFree (s.dnzStart.free + 1)) hd hp (hframe.setFree _) _⟩
  · obtain ⟨hd, hp, hframe⟩ := dnzStart_spec s
    cases hden : denormalize s.cfg.fp48 s.accumulator sc with
    | some i =>
      by_cases hi : i.natAbs ≤ 32767
      · obtain ⟨hd, hp, hframe⟩ := dnz_load hd hp hframe (BitVec.ofInt 16 i)
        exact ⟨_, hd, hp, .inl ⟨exec_dnz_fits hden hi, hframe⟩⟩
      · obtain ⟨hz, hd, hp, hframe⟩ := dnz_error (u := s.dnzStart.withFree (s.dnzStart.free + 1)) hd hp
          (hframe.setFree _) (Config.freeWord s.dnzStart.free)
        exact ⟨_, hd, hp, .inr ⟨exec_dnz_overflow hden (by omega), hz, hframe⟩⟩
    | none =>
      obtain ⟨⟨w, error⟩, hrun⟩ := exec_dnz_other hden
      cases error with
      | false =>
        obtain ⟨hd, hp, hframe⟩ := dnz_load hd hp hframe w
        exact ⟨_, hd, hp, .inl ⟨hrun, hframe⟩⟩
      | true =>
        obtain ⟨hz, hd, hp, hframe⟩ := dnz_error hd hp hframe w
        exact ⟨_, hd, hp, .inr ⟨hrun, hz, hframe⟩⟩

end Sys2Proof.Machine
end
